-- ==== Sys2Proof/Word.lean ====
section
/-! DEFINITION. The machine's word: every quantity the engine handles is one byte wide (20_memory.md R62). -/

namespace Sys2Proof

/-- A byte, 0 to 255, bit 0 the least significant (00_scope.md R11). Its addition is `+8`, modulo 256. -/
abbrev Byte := BitVec 8

end Sys2Proof
end

