-- ==== Sys2Proof/Config.lean ====
section
/-! DEFINITION. The parameters of 00_scope.md R8, and the free values. State carries one `Config`, which no step
changes, so a statement about every state is a statement about every value of the open parameters. -/

namespace Sys2Proof

/-- `LINE_FORMAT`: how a byte is put into line bits, below the byte interface (20_memory.md R63). -/
structure LineFormat where
  dataBits : Nat
  parity : Bool
  stopBits : Nat
  lsbFirst : Bool
  deriving DecidableEq, Repr

/-- Where one index space lies on a host bus. -/
structure SpaceBinding where
  base : Nat
  stride : Nat
  deriving DecidableEq, Repr

/-- `HOST_BINDING`: how REG, PBUF and RBUF are bound to a host bus (10_state.md R24). -/
structure HostBinding where
  reg : SpaceBinding
  pbuf : SpaceBinding
  rbuf : SpaceBinding
  deriving DecidableEq, Repr

/-- The parameters of one engine (R8). `PAYLOAD_MAX` and `REPLY_MAX` are 255 and fixed by the widths of LEN and
RCOUNT. -/
structure Config where
  /-- `ACK_CODE`: the one positive acknowledgment byte (R23, D1). -/
  ackCode : Byte
  /-- The strap `COMPACT` is sampled from at reset (R22). -/
  compactStrap : Bool
  /-- `BOUNDED_WAIT`: whether the optional TIMEOUT step exists (R150, D9). -/
  boundedWait : Bool
  /-- `QUIESCENCE_MS`: the length of the window; a model keeps no time and no step reads it (R204). -/
  quiescenceMs : Nat
  /-- `BAUD_W`: the width of the opaque baud value (D23). -/
  baudW : Nat
  /-- `RX_DEPTH`: the capacity of the receive queue, `none` for unbounded (D15). -/
  rxDepth : Option Nat
  /-- `LINE_FORMAT`: no rule depends on it and no step reads it (R63, D17; log 22). -/
  lineFormat : LineFormat
  /-- `HOST_BINDING`: no rule depends on it and no step reads it (R24, D2; log 22). -/
  hostBinding : HostBinding
  deriving DecidableEq, Repr

/-- The values `State.reset` takes: R8's defaults where it gives one (`BOUNDED_WAIT` false, `QUIESCENCE_MS` 2000,
`ACK_CODE` 0x06, 8 data bits, no parity); the rest DESIGN CHOICE (logs 9, 10, 12, 13, 22). UNSAFE: the spec leaves
those parameters open. -/
def Config.default : Config where
  ackCode := 0x06
  compactStrap := false
  boundedWait := false
  quiescenceMs := 2000
  baudW := 32
  rxDepth := none
  lineFormat := { dataBits := 8, parity := false, stopBits := 1, lsbFirst := true }
  hostBinding :=
    { reg := { base := 0, stride := 1 }, pbuf := { base := 0, stride := 1 }, rbuf := { base := 0, stride := 1 } }

/-- A free value: what the host reads from FILL, RCOUNT or RBUF while BUSY = 1 is unspecified
(93_implementation_defined.md U6). Each draw applies it to a fresh counter; nothing is known of its value (log 8). -/
opaque Config.freeByte (draw : Nat) : Byte

end Sys2Proof
end

