-- ==== Sys2Proof/Syntax.lean ====
section
/-! DEFINITION. The rows of spec/opcode_table.json, one constructor each. -/

namespace Sys2Proof

/-- What the engine can be told to do or be in the middle of (log 3).

The first nine are what a byte written to CMD stands for (30_encoding.md R90 to R93); their operands are not in the
byte but in LEN, PBUF and BAUD (R90). The last seven are the wire formats (R94, R95, R100 to R103): while an
operation runs, the engine is always inside one of them, and PHASE and IDX say where. Their operands too stand in
LEN, PBUF and RXQ, and are moved one byte a step (20_memory.md R67, R74); `Message` (WellFormed.lean) is a whole one
with its field values. -/
inductive Instr
  /-- CMD 0: frame in the configured mode, acknowledged (R152). -/
  | send
  /-- CMD 1: frame in mode B, acknowledged (R153). -/
  | sendb
  /-- CMD 2: frame in the configured mode, not acknowledged (R154). -/
  | sendna
  /-- CMD 3: frame in mode B, not acknowledged (R155). -/
  | sendbna
  /-- CMD 4: buffer-fill query (R172). -/
  | qfill
  /-- CMD 5: buffer-read query (R177). -/
  | rdbuf
  /-- CMD 6: OPEN the transport (R121). -/
  | openLine
  /-- CMD 7: reserved (R93). -/
  | reservedOpcode7
  /-- CMD with bits[7:3] = `hi` not all zero: reserved, whatever bits[2:0] = `opc` are (R93). -/
  | reservedBits (hi : BitVec 5) (opc : BitVec 3)
  /-- Outgoing frame in mode A (R94). -/
  | frameA
  /-- Outgoing frame in mode B (R95). -/
  | frameB
  /-- Outgoing buffer-fill query frame, `12 01 49 5C` (R103). -/
  | queryFillFrame
  /-- Outgoing buffer-read query frame, `12 01 53 66` (R103). -/
  | queryReadFrame
  /-- Incoming acknowledgment byte (R100). -/
  | ackByte
  /-- Incoming fill reply, five bytes (R101). -/
  | fillReply
  /-- Incoming buffer reply, n + 2 bytes (R102). -/
  | bufferReply
  deriving DecidableEq, Repr

end Sys2Proof
end

