-- ==== Sys2Proof/WellFormed.lean ====
section
/-! DEFINITION. Whole encoded units with their field values, and the checks on them. -/

namespace Sys2Proof

/-- The command rows: those a byte written to CMD stands for (30_encoding.md R91, R93). -/
def Instr.isCommand : Instr → Bool
  | .send | .sendb | .sendna | .sendbna | .qfill | .rdbuf | .openLine | .reservedOpcode7 | .reservedBits _ _ => true
  | .frameA | .frameB | .queryFillFrame | .queryReadFrame | .ackByte | .fillReply | .bufferReply => false

/-- A reserved byte of the last command row has some bit of 7:3 set (R93); every other row is always well formed. -/
def Instr.wellFormed : Instr → Bool
  | .reservedBits hi _ => hi != 0
  | .send | .sendb | .sendna | .sendbna | .qfill | .rdbuf | .openLine | .reservedOpcode7 | .frameA | .frameB
  | .queryFillFrame | .queryReadFrame | .ackByte | .fillReply | .bufferReply => true

/-- One whole encoded unit: a command byte, or a wire message with the values of its fields. A frame's header, length
and checksum bytes are no fields here: they follow from the payload (R94, R95, R97). -/
inductive Message
  /-- A byte written to CMD (R90). -/
  | command (i : Instr)
  /-- A mode A frame around `payload` (R94). -/
  | frameA (payload : List Byte)
  /-- A mode B frame around `payload` (R95). -/
  | frameB (payload : List Byte)
  /-- The buffer-fill query frame (R103). -/
  | queryFillFrame
  /-- The buffer-read query frame (R103). -/
  | queryReadFrame
  /-- An acknowledgment byte, any value (R100). -/
  | ackByte (ack : Byte)
  /-- A fill reply: two bytes dropped, the fill level, two bytes dropped (R101). -/
  | fillReply (r0 r1 level r3 r4 : Byte)
  /-- A buffer reply: the length byte is `data`'s length; `trailing` is dropped (R102). -/
  | bufferReply (data : List Byte) (trailing : Byte)
  deriving DecidableEq, Repr

/-- The row of the opcode table a message belongs to. -/
def Message.instr : Message → Instr
  | .command i => i
  | .frameA _ => .frameA
  | .frameB _ => .frameB
  | .queryFillFrame => .queryFillFrame
  | .queryReadFrame => .queryReadFrame
  | .ackByte _ => .ackByte
  | .fillReply .. => .fillReply
  | .bufferReply _ _ => .bufferReply

/-- Where an encoded unit stands, which is all that tells its kind (R99, R102, 70_reset_and_hazards.md R227): a
command byte in CMD, a frame in TXLOG, and in RXQ what the phase of the engine makes of the bytes. -/
inductive Channel
  | cmd
  | wireOut
  | ackWait
  | fillReply
  | bufferReply
  deriving DecidableEq, Repr

/-- The channel a message travels on. -/
def Message.channel : Message → Channel
  | .command _ => .cmd
  | .frameA _ | .frameB _ | .queryFillFrame | .queryReadFrame => .wireOut
  | .ackByte _ => .ackWait
  | .fillReply .. => .fillReply
  | .bufferReply _ _ => .bufferReply

/-- A command message holds a well-formed command row; `PAYLOAD_MAX` and `REPLY_MAX` are 255 (00_scope.md R8). -/
def Message.wellFormed : Message → Bool
  | .command i => i.isCommand && i.wellFormed
  | .frameA p | .frameB p => p.length ≤ 255
  | .bufferReply d _ => d.length ≤ 255
  | .queryFillFrame | .queryReadFrame | .ackByte _ | .fillReply .. => true

end Sys2Proof
end

