-- ==== Sys2Proof/Decode.lean ====
section
/-! DEFINITION. The encodings of 30_encoding.md: the constants of 00_scope.md R7, the checksum, the decoders, total on
any bytes and rejecting by name, and after them the encoders. -/

namespace Sys2Proof

/-- The mode A header byte (R7). -/
def hdrA : Byte := 0x11

/-- The mode B header byte (R7). -/
def hdrB : Byte := 0x12

/-- `QF`, the buffer-fill query payload, `0x01, 'I'` (R7; the ASCII code is from general knowledge, log 21). -/
def payloadQF : List Byte := [0x01, 0x49]

/-- `QS`, the buffer-read query payload, `0x01, 'S'` (R7; log 21). -/
def payloadQS : List Byte := [0x01, 0x53]

/-- `FILL_PRE`: leading bytes of a fill reply that are dropped (R7, R173). -/
def fillPre : Nat := 2

/-- `FILL_POST`: trailing bytes of a fill reply that are dropped (R7, R173). -/
def fillPost : Nat := 2

/-- "unsigned 8-bit sum of every preceding byte in the frame, mod 256" (R97). -/
def checksum : List Byte → Byte
  | [] => 0
  | b :: bs => b + checksum bs

/-- Why bytes are no unit of the channel they stand in. -/
inductive Reject
  /-- No byte at all where one is needed. -/
  | noByte
  /-- Bytes after the end of a unit of fixed length. -/
  | extraBytes
  /-- The bytes end before the unit does. -/
  | truncated
  /-- A frame that begins with neither 0x11 nor 0x12 (R94, R95). -/
  | unknownHeader (b : Byte)
  /-- A length byte that does not fit the number of bytes (R94, R102). -/
  | lengthMismatch
  /-- A mode B frame with more than `PAYLOAD_MAX` payload bytes (R95). -/
  | payloadTooLong
  /-- A checksum byte that is not the sum of the bytes before it (R97). -/
  | badChecksum
  deriving DecidableEq, Repr

/-- Bits[7:3] of a command byte (R90). -/
def cmdReserved (b : Byte) : BitVec 5 := b.extractLsb' 3 5

/-- Bits[2:0] of a command byte, OPC (R90). -/
def cmdOpc (b : Byte) : BitVec 3 := b.extractLsb' 0 3

/-- R92: any of bits[7:3] set, else by opcode. Every byte is a row of the table, a reserved one if nothing else. -/
def decodeCmd (b : Byte) : Instr :=
  if cmdReserved b ≠ 0 then .reservedBits (cmdReserved b) (cmdOpc b)
  else
    match (cmdOpc b).toNat with
    | 0 => .send
    | 1 => .sendb
    | 2 => .sendna
    | 3 => .sendbna
    | 4 => .qfill
    | 5 => .rdbuf
    | 6 => .openLine
    | _ => .reservedOpcode7

/-- The last byte of a non-empty list and the bytes before it. -/
def splitLast : List Byte → Option (List Byte × Byte)
  | [] => none
  | b :: bs =>
    match splitLast bs with
    | none => some ([], b)
    | some (front, last) => some (b :: front, last)

/-- A frame body and its checksum byte, checked against the bytes before it (R97). -/
def checkedBody (front : List Byte) (bytes : List Byte) : Except Reject (List Byte) :=
  match splitLast bytes with
  | none => .error .truncated
  | some (p, c) => if c = checksum (front ++ p) then .ok p else .error .badChecksum

/-- A mode A frame after its header: length byte, payload, checksum (R94). -/
def decodeFrameA : List Byte → Except Reject Message
  | [] => .error .truncated
  | l :: body =>
    if body.length = l.toNat + 1 then (checkedBody [hdrA, l] body).map .frameA else .error .lengthMismatch

/-- A mode B payload as a message: the two fixed query frames have rows of their own (R103; log 18). -/
def messageOfPayloadB (p : List Byte) : Message :=
  if p = payloadQF then .queryFillFrame else if p = payloadQS then .queryReadFrame else .frameB p

/-- A mode B frame after its header: payload, checksum; the end of the bytes is its only end mark (R95, R98). -/
def decodeFrameB (body : List Byte) : Except Reject Message :=
  if 256 < body.length then .error .payloadTooLong else (checkedBody [hdrB] body).map messageOfPayloadB

/-- A whole outgoing frame (R94, R95). -/
def decodeFrame : List Byte → Except Reject Message
  | [] => .error .noByte
  | h :: body =>
    if h = hdrA then decodeFrameA body else if h = hdrB then decodeFrameB body else .error (.unknownHeader h)

/-- A whole buffer reply: length byte, that many bytes, one trailing byte (R102). -/
def decodeBufferReply : List Byte → Except Reject Message
  | [] => .error .noByte
  | n :: body =>
    if body.length = n.toNat + 1 then
      match splitLast body with
      | none => .error .truncated
      | some (d, t) => .ok (.bufferReply d t)
    else .error .lengthMismatch

/-- A unit of exactly one byte. -/
def decodeOneByte (f : Byte → Message) : List Byte → Except Reject Message
  | [] => .error .noByte
  | [b] => .ok (f b)
  | _ :: _ :: _ => .error .extraBytes

/-- A whole fill reply, always exactly five bytes (R99, R101). -/
def decodeFillReply : List Byte → Except Reject Message
  | [r0, r1, level, r3, r4] => .ok (.fillReply r0 r1 level r3 r4)
  | _ :: _ :: _ :: _ :: _ :: _ :: _ => .error .extraBytes
  | _ => .error .truncated

/-- The whole unit that `bytes` are on channel `ch`. -/
def decode (ch : Channel) (bytes : List Byte) : Except Reject Message :=
  match ch with
  | .cmd => decodeOneByte (fun b => .command (decodeCmd b)) bytes
  | .wireOut => decodeFrame bytes
  | .ackWait => decodeOneByte .ackByte bytes
  | .fillReply => decodeFillReply bytes
  | .bufferReply => decodeBufferReply bytes

/-- The command byte of a command row (R91), none for a wire format. -/
def encodeCmd : Instr → Option Byte
  | .send => some 0x00
  | .sendb => some 0x01
  | .sendna => some 0x02
  | .sendbna => some 0x03
  | .qfill => some 0x04
  | .rdbuf => some 0x05
  | .openLine => some 0x06
  | .reservedOpcode7 => some 0x07
  | .reservedBits hi opc => some (hi ++ opc)
  | .frameA | .frameB | .queryFillFrame | .queryReadFrame | .ackByte | .fillReply | .bufferReply => none

/-- A count as one byte (R94, R102). -/
def countByte (n : Nat) : Byte := BitVec.ofNat 8 n

/-- Bytes followed by their checksum (R97). -/
def withChecksum (bytes : List Byte) : List Byte := bytes ++ [checksum bytes]

/-- The bytes of a whole unit, in the order they are sent (20_memory.md R62). -/
def encode : Message → List Byte
  | .command i => (encodeCmd i).toList
  | .frameA p => withChecksum (hdrA :: countByte p.length :: p)
  | .frameB p => withChecksum (hdrB :: p)
  | .queryFillFrame => [0x12, 0x01, 0x49, 0x5C]
  | .queryReadFrame => [0x12, 0x01, 0x53, 0x66]
  | .ackByte a => [a]
  | .fillReply r0 r1 level r3 r4 => [r0, r1, level, r3, r4]
  | .bufferReply d t => countByte d.length :: d ++ [t]

/-- The row a message's bytes are read as: a mode B frame around a query payload is the query frame (R103; log 18),
every other message is itself. -/
def Message.canon : Message → Message
  | .frameB p => messageOfPayloadB p
  | m => m

/-- The `n` low bytes of `w`, the most significant first: spec/opcode_table.json writes a frame of four bytes as one
32-bit number whose top byte is sent first (`0x1201495C` for `12 01 49 5C`); log 17. -/
def tableBytes : Nat → Nat → List Byte
  | 0, _ => []
  | n + 1, w => BitVec.ofNat 8 (w / 256 ^ n) :: tableBytes n w

/-- The message a table row's bits stand for: one byte is a CMD write; more are a frame, and what is no frame is read
as a reply, for whose rows the table fixes no bit (log 17). -/
def decodeTable (nbits w : Nat) : Option Message :=
  let bytes := tableBytes (nbits / 8) w
  match bytes with
  | [] => none
  | [b] => some (.command (decodeCmd b))
  | _ :: _ :: _ =>
    match decode .wireOut bytes, decode .fillReply bytes, decode .bufferReply bytes with
    | .ok m, _, _ => some m
    | .error _, .ok m, _ => some m
    | .error _, .error _, .ok m => some m
    | .error _, .error _, .error _ => none

/-- The instruction the decoder reads from a table row's bits. -/
def decodeTableWord (nbits w : Nat) : Option Instr := (decodeTable nbits w).map Message.instr

end Sys2Proof
end

