-- ==== Sys2Proof/Machine/State.lean ====
section
/-! DEFINITION. Everything the spec gives the machine, as plain data, and the machine right after reset. -/

namespace Sys2Proof.Machine

/-- The engine's position in the current operation (10_state.md R35). -/
inductive Phase
  | idle | txHdr | txLen | txPay | txSum | ackWait | rxPre | rxFill | rxPost | rxLen | rxData | rxTrail
  deriving DecidableEq, Repr

/-- The opcodes that OP can latch (R37): OPEN completes at once and is never latched. -/
inductive Op
  | send | sendb | sendna | sendbna | qfill | rdbuf
  deriving DecidableEq, Repr

/-- The quiescence timer of the bounded-wait variant, without its time (60_exceptions.md R204; log 11): no step waits
for it. -/
inductive Timer
  | stopped | running
  deriving DecidableEq, Repr

/-- The cell a host transaction names (R24, R43): a register number 0 to 15, or a buffer index. -/
inductive Target
  | reg (n : BitVec 4)
  | pbuf (i : Byte)
  | rbuf (i : Byte)
  deriving DecidableEq, Repr

/-- One host transaction (R43). -/
inductive HostOp
  | read (t : Target)
  | write (t : Target) (data : Nat)
  deriving DecidableEq, Repr

/-- What happens next, and to whom: one step of one agent (R20, R21; log 1). -/
inductive Input
  /-- The engine takes its step, if one is enabled. -/
  | engine
  /-- The host makes one transaction. -/
  | host (op : HostOp)
  /-- The device appends a byte to RXQ (R127). -/
  | device (v : Byte)
  /-- The transport's acceptance handshake changes (R44, R123; log 14). -/
  | txReady (accepts : Bool)
  /-- The oldest byte of the transmit buffer goes out on the line (R123). -/
  | txDrain
  /-- The reset input is asserted (R45, R221). -/
  | reset
  deriving DecidableEq, Repr

/-- A byte buffer: index and byte, indices strictly rising, one entry for each cell written since reset. -/
abbrev Memory := List Host.Cell

/-- The state of the engine, of the transport it drives, and of what the outside is about to do. -/
structure State where
  /-- The parameters (00_scope.md R8); no step changes them. -/
  cfg : Config
  /-- COMPACT, sampled from the strap at reset (R22). -/
  compact : Bool
  /-- OPENED (R34). -/
  opened : Bool
  /-- The baud value `open` was given, none before OPEN (40_transport.md R121). -/
  lineBaud : Option Nat
  /-- PHASE (R35). -/
  phase : Phase
  /-- OP (R37). -/
  op : Op
  /-- IDX (R38). -/
  idx : Byte
  /-- CSUM (R39). -/
  csum : Byte
  /-- LEN, register 2 (R29). -/
  len : Byte
  /-- FILL, register 3 (R31). -/
  fill : Byte
  /-- RCOUNT, register 4 (R32). -/
  rcount : Byte
  /-- BAUD, register 5, below 2 ^ BAUD_W (R33). -/
  baud : Nat
  /-- PBUF (R30). -/
  pbuf : Memory
  /-- RBUF (R32). -/
  rbuf : Memory
  /-- TXLOG, oldest first (R40). -/
  txlog : List Byte
  /-- The transport's transmit buffer, oldest first (R42, R45). -/
  txbuf : List Byte
  /-- Whether the transport accepts a byte now (R44, R123; log 14). -/
  txReady : Bool
  /-- RXQ, oldest first (R41). -/
  rxq : List Byte
  /-- The quiescence timer (R204). -/
  timer : Timer
  /-- The model's own: what happens next, oldest first; when it is empty the engine steps (log 1). -/
  inputs : List Input
  /-- The model's own: the values host reads returned, oldest first (log 20). -/
  readLog : List Nat
  /-- The model's own: how many free values have been drawn (log 8). -/
  draws : Nat
  deriving DecidableEq, Repr

/-- The machine right after reset, for the parameters `c` (R45, R220). OP, IDX, CSUM, LEN, FILL, RCOUNT and BAUD are
"unspecified" there: SEND and zero are a DESIGN CHOICE, UNSAFE (log 6). The buffers hold no written cell (R46, log 7).
`txReady` is DEDUCED: the transmit buffer is empty (log 14). -/
def State.resetOf (c : Config) : State where
  cfg := c
  compact := c.compactStrap
  opened := false
  lineBaud := none
  phase := .idle
  op := .send
  idx := 0
  csum := 0
  len := 0
  fill := 0
  rcount := 0
  baud := 0
  pbuf := []
  rbuf := []
  txlog := []
  txbuf := []
  txReady := true
  rxq := []
  timer := .stopped
  inputs := []
  readLog := []
  draws := 0

/-- The machine right after reset, with the default parameters (00_scope.md R8). -/
def State.reset : State := State.resetOf Config.default

/-- What stops the machine. The engine raises nothing itself (60_exceptions.md R190, R206 e). -/
inductive Fault
  /-- A read of a PBUF or RBUF cell nothing has written since reset: raised by the engine's TX_PAY step and by host
  reads (R46, U7). Safe: hardware goes on with some value. -/
  | unwrittenCell
  /-- An engine access to a cell that does not exist: index 255 of PBUF or RBUF, or past the end of a query payload.
  Raised by the TX_PAY and RX_DATA steps; the engine never makes one from a reachable state (R38, R64). Safe (log 19). -/
  | noSuchCell
  /-- A byte arriving at a full receive queue: raised by the device's step (R41, U3). Safe: the spec forbids picking
  which byte is lost. -/
  | rxOverflow
  /-- `readByte` with no byte buffered, "undefined/erroneous" (40_transport.md R125, U1): raised by `State.rxPop`
  alone, which no engine step calls on an empty queue. Safe. -/
  | readEmpty
  deriving DecidableEq, Repr

/-- What the model gives no meaning. -/
inductive Refusal
  /-- An instruction with no meaning yet, by its mnemonic: raised by no arm of this model. Safe. -/
  | notModelled (mnemonic : String)
  /-- A host write whose data does not fit the cell: one transaction carries one cell (R24, R43, R60), so the port
  never sees one. Raised by host writes. Safe (log 15). -/
  | dataTooWide
  deriving DecidableEq, Repr

/-- The outcome of a step. -/
abbrev Result := Host.Outcome State Fault Refusal

end Sys2Proof.Machine
end

