-- ==== Sys2Proof/Machine/Ops.lean ====
section
/-! DEFINITION. The named operations over buffers, the transport's primitives (40_transport.md), the retry arbiter's
restart and its way out (60_exceptions.md R200, R201), and reset. -/

namespace Sys2Proof.Machine

/-- What a cell nothing has written reads as: no value (10_state.md R46; log 7). -/
def Memory.unlisted : Option Byte := none

/-- `MemRead`: one cell of a buffer (00_scope.md R11). -/
def Memory.read : Memory → Nat → Option Byte
  | [], _ => Memory.unlisted
  | (k, v) :: rest, a => if k = a then some v else Memory.read rest a

/-- `MemWrite`: one cell of a buffer, keeping the indices strictly rising (R11). -/
def Memory.write : Memory → Nat → Byte → Memory
  | [], a, v => [(a, v)]
  | (k, w) :: rest, a, v =>
    if a < k then (a, v) :: (k, w) :: rest
    else if a = k then (a, v) :: rest
    else (k, w) :: Memory.write rest a v

/-- The canonical form: indices strictly rising. No entry can equal what an unlisted cell reads as, which is no value. -/
def Memory.wf : Memory → Bool
  | [] => true
  | [_] => true
  | (a, _) :: (b, w) :: rest => decide (a < b) && Memory.wf ((b, w) :: rest)

/-- PBUF and RBUF have the cells 0 to 254 (R30, R32, R60). -/
def bufCells : Nat := 255

/-- Every cell a buffer lists is one it has. -/
def Memory.inRange (m : Memory) : Bool := m.all fun c => decide (c.1 < bufCells)

/-- Reading a buffer cell the buffer has: its byte, or the fault of a cell nothing has written (R46, U7). -/
def Memory.cell (m : Memory) (i : Nat) : Except Fault Byte :=
  if i < bufCells then
    match m.read i with
    | some b => .ok b
    | none => .error .unwrittenCell
  else .error .noSuchCell

/-- BUSY: PHASE is not IDLE (R28). -/
def State.busy (s : State) : Bool := s.phase != .idle

/-- `Tx(b)`: the byte is appended to TXLOG and stands in the transmit buffer (R123). -/
def State.tx (b : Byte) (s : State) : State :=
  { s with txlog := s.txlog ++ [b], txbuf := s.txbuf ++ [b] }

/-- A step with a `Tx` is enabled only when the transport accepts; until then the engine stays as it is (R123). -/
def State.whenAccepts (s : State) (r : Result) : Result := if s.txReady then r else .next s

/-- `RxAvail()`: the number of bytes buffered for read (R124). -/
def State.rxAvail (s : State) : Nat := s.rxq.length

/-- `RxPop()`: the oldest byte and the state without it; "undefined/erroneous" with none buffered (R125). -/
def State.rxPop (s : State) (k : Byte → State → Result) : Result :=
  match s.rxq with
  | [] => .fault .readEmpty
  | b :: rest => k b { s with rxq := rest }

/-- `waitUntilAvailable()` as the guard of a step that reads one byte: while RXQ is empty the engine stays in its phase,
for ever if no byte comes (R126, R170). -/
def State.onByte (s : State) (k : Byte → State → Result) : Result :=
  if 0 < s.rxAvail then s.rxPop k else .next s

/-- The acceptance of an operation: OP is latched and the first attempt starts (R141, R171). -/
def State.issue (o : Op) (s : State) : State := { s with op := o, phase := .txHdr }

/-- PHASE becomes ACK_WAIT; in the bounded variant the quiescence timer starts (R146, R204). -/
def State.enterAckWait (s : State) : State :=
  { s with phase := .ackWait, timer := if s.cfg.boundedWait then .running else .stopped }

/-- Entry into a retry, on NAK or TIMEOUT: the frame starts again from its header and nothing is saved (R200). -/
def State.restartFrame (s : State) : State := { s with phase := .txHdr, timer := .stopped }

/-- The way out of the retry loop, on ACK: the send has succeeded (R148, R201). SENDNA and SENDBNA never wait for an
acknowledgment; were OP one of them, the operation would end (log 19). -/
def State.acknowledged (s : State) : State :=
  match s.op with
  | .send | .sendb | .sendna | .sendbna => { s with phase := .idle, timer := .stopped }
  | .qfill => { s with phase := .rxPre, idx := 0, timer := .stopped }
  | .rdbuf => { s with phase := .rxLen, timer := .stopped }

/-- A byte leaves the transmit buffer for the line (R123). -/
def State.drain (s : State) : State := { s with txbuf := s.txbuf.tail }

/-- Whether RXQ has reached `RX_DEPTH` (R41). -/
def State.rxFull (s : State) : Bool :=
  match s.cfg.rxDepth with
  | none => false
  | some d => decide (d ≤ s.rxq.length)

/-- The device's step: append a byte while OPENED = 1, nothing before (R41, R127); the byte stops the quiescence timer
(R204). At a full queue the spec picks no outcome (U3). -/
def State.deviceAppend (v : Byte) (s : State) : Result :=
  if s.opened then
    if s.rxFull then .fault .rxOverflow else .next { s with rxq := s.rxq ++ [v], timer := .stopped }
  else .next s

/-- The reset input: every piece of the machine's state goes to its reset value, COMPACT to its strap (R45, R220, R221).
What the outside is about to do and what reads returned are not the machine's and stay (log 16). -/
def State.resetNow (s : State) : State :=
  { State.resetOf s.cfg with inputs := s.inputs, readLog := s.readLog, draws := s.draws }

end Sys2Proof.Machine
end

