-- ==== Sys2Proof/Machine/Operands.lean ====
section
/-! DEFINITION. The derived functions of 00_scope.md R12, and the wire format the sequencer is inside. -/

namespace Sys2Proof.Machine

/-- The two frame formats (R12). -/
inductive Mode
  | A | B
  deriving DecidableEq, Repr

/-- Where a frame's payload comes from (R12): LEN and PBUF, or a constant of the engine. -/
inductive Source
  | payload | queryFill | queryRead
  deriving DecidableEq, Repr

/-- `mode(OP)` (R12). -/
def Op.mode (compact : Bool) : Op → Mode
  | .sendb | .sendbna | .qfill | .rdbuf => .B
  | .send | .sendna => if compact then .B else .A

/-- `acked(OP)` (R12). -/
def Op.acked : Op → Bool
  | .sendna | .sendbna => false
  | .send | .sendb | .qfill | .rdbuf => true

/-- Where `P(OP)` comes from (R12). -/
def Op.source : Op → Source
  | .qfill => .queryFill
  | .rdbuf => .queryRead
  | .send | .sendb | .sendna | .sendbna => .payload

/-- The opcode bits OP latches from CMD.OPC (R37, R91). -/
def Op.code : Op → BitVec 3
  | .send => 0
  | .sendb => 1
  | .sendna => 2
  | .sendbna => 3
  | .qfill => 4
  | .rdbuf => 5

/-- The byte whose write to CMD starts the operation: its opcode, bits[7:3] zero (R91, R141, R171). -/
def Op.cmdByte (o : Op) : Byte := 0#5 ++ o.code

/-- `hdr` (R12). -/
def Mode.hdr : Mode → Byte
  | .A => hdrA
  | .B => hdrB

/-- `L` of a payload source (R12). -/
def Source.len (s : State) : Source → Byte
  | .payload => s.len
  | .queryFill => countByte payloadQF.length
  | .queryRead => countByte payloadQS.length

/-- Byte `i` of a constant payload. -/
def constByte (p : List Byte) (i : Nat) : Except Fault Byte :=
  match p[i]? with
  | some b => .ok b
  | none => .error .noSuchCell

/-- `P[i]` of a payload source: `MemRead(PBUF, i, 1)` or the constant byte (R145). -/
def Source.byte (s : State) (i : Nat) : Source → Except Fault Byte
  | .payload => s.pbuf.cell i
  | .queryFill => constByte payloadQF i
  | .queryRead => constByte payloadQS i

/-- The outgoing format of the operation in progress (R94 to R96, R103). -/
def State.frameInstr (s : State) : Instr :=
  match s.op.source, s.op.mode s.compact with
  | .queryFill, _ => .queryFillFrame
  | .queryRead, _ => .queryReadFrame
  | .payload, .A => .frameA
  | .payload, .B => .frameB

/-- The engine's fetch: the wire format that PHASE and OP put the engine in, none when it is idle (R35; log 3). -/
def State.inProgress (s : State) : Option Instr :=
  match s.phase with
  | .idle => none
  | .txHdr | .txLen | .txPay | .txSum => some s.frameInstr
  | .ackWait => some .ackByte
  | .rxPre | .rxFill | .rxPost => some .fillReply
  | .rxLen | .rxData | .rxTrail => some .bufferReply

end Sys2Proof.Machine
end

