-- ==== Sys2Proof/Machine/Flags.lean ====
section
/-! DEFINITION. The STATUS bits (10_state.md R28) and the running checksum (R39). The engine has no other flag: the
carry of each addition is discarded (R39, 41_send_path.md R156). -/

namespace Sys2Proof.Machine

/-- The running checksum after one more byte: `CSUM +8 b` (R39). -/
def accumulate (csum b : Byte) : Byte := csum + b

/-- A flag as a number. -/
def bitOf (b : Bool) : Nat := if b then 1 else 0

/-- STATUS, register 1: bit 0 BUSY, bit 1 OPENED, bit 2 COMPACT, bits[7:3] zero (R28). -/
def State.status (s : State) : Byte :=
  BitVec.ofNat 8 (bitOf s.busy + 2 * bitOf s.opened + 4 * bitOf s.compact)

end Sys2Proof.Machine
end

