-- ==== Sys2Proof/Machine/Acknowledge.lean ====
section
/-! DEFINITION. The acknowledgment and retry arbiter (41_send_path.md R147 to R151). -/

namespace Sys2Proof.Machine

/-- ACK_WAIT with RXQ empty: in the bounded variant step TIMEOUT is enabled, whenever the engine gets its turn
(60_exceptions.md R204, U5: no time is kept; log 11); in the authoritative variant the engine waits (R147, R150). -/
def timeoutOrWait (s : State) : Result :=
  if s.cfg.boundedWait then .next s.restartFrame else .next s

/-- Steps ACK and NAK: the oldest byte is consumed and compared on all 8 bits with `ACK_CODE` (R148, R149). -/
def judgeAck (b : Byte) (s : State) : Result :=
  if b = s.cfg.ackCode then .next s.acknowledged else .next s.restartFrame

/-- The step of phase ACK_WAIT (R147 to R150). -/
def awaitAck (s : State) : Result :=
  if 0 < s.rxAvail then s.rxPop judgeAck else timeoutOrWait s

/-- ACK_BYTE: the engine's step while it waits for one acknowledgment byte (30_encoding.md R100); in any other phase no
step of it is enabled (log 4). -/
def execAckByte (s : State) : Result :=
  match s.phase with
  | .ackWait => awaitAck s
  | .idle | .txHdr | .txLen | .txPay | .txSum | .rxPre | .rxFill | .rxPost | .rxLen | .rxData | .rxTrail => .next s

end Sys2Proof.Machine
end

