-- ==== Sys2Proof/Machine/Commands.lean ====
section
/-! DEFINITION. The commands: what a byte written to CMD does. Each either starts its operation or, when it is not
accepted, is ignored and changes nothing (60_exceptions.md R196; log 5). -/

namespace Sys2Proof.Machine

/-- Opcodes 0 to 5 are accepted when PHASE = IDLE and OPENED = 1 (41_send_path.md R141, 42_receive_path.md R171). -/
def acceptOp (o : Op) (s : State) : Result :=
  if s.phase = .idle ∧ s.opened = true then .next (s.issue o) else .next s

/-- SEND (R152). -/
def execSend (s : State) : Result := acceptOp .send s

/-- SENDB (R153). -/
def execSendb (s : State) : Result := acceptOp .sendb s

/-- SENDNA (R154). -/
def execSendna (s : State) : Result := acceptOp .sendna s

/-- SENDBNA (R155). -/
def execSendbna (s : State) : Result := acceptOp .sendbna s

/-- QFILL (R172). -/
def execQfill (s : State) : Result := acceptOp .qfill s

/-- RDBUF (R177). -/
def execRdbuf (s : State) : Result := acceptOp .rdbuf s

/-- OPEN: accepted when PHASE = IDLE and OPENED = 0; the transport is given BAUD and is open at once (R121). -/
def execOpenLine (s : State) : Result :=
  if s.phase = .idle ∧ s.opened = false then .next { s with opened := true, lineBaud := some s.baud } else .next s

/-- Opcode 7 is ignored: no state changes (30_encoding.md R93). -/
def execReservedOpcode7 (s : State) : Result := .next s

/-- A command byte with a reserved bit set is ignored, whatever its opcode bits (R93). -/
def execReservedBits (_hi : BitVec 5) (_opc : BitVec 3) (s : State) : Result := .next s

end Sys2Proof.Machine
end

