-- ==== Sys2Proof/Machine/Emission.lean ====
section
/-! DEFINITION. Frame emission: the steps TX_HDR, TX_LEN, TX_PAY, TX_SUM (41_send_path.md R142 to R146), one byte a
step, shared by the four outgoing formats. -/

namespace Sys2Proof.Machine

/-- Step TX_HDR: the start of an attempt (R142). -/
def emitHdr (m : Mode) (src : Source) (s : State) : Result :=
  s.whenAccepts (.next
    { s.tx m.hdr with
      csum := m.hdr
      idx := 0
      phase := match m with
        | .A => .txLen
        | .B => if 0 < (src.len s).toNat then .txPay else .txSum })

/-- Step TX_LEN (R143). -/
def emitLen (src : Source) (s : State) : Result :=
  s.whenAccepts (.next
    { s.tx (src.len s) with
      csum := accumulate s.csum (src.len s)
      phase := if 0 < (src.len s).toNat then .txPay else .txSum })

/-- Step TX_PAY: one payload byte (R145). The comparison with L is made without wrap-around (R156). -/
def emitPay (src : Source) (s : State) : Result :=
  s.whenAccepts
    (match src.byte s s.idx.toNat with
    | .error f => .fault f
    | .ok b => .next
        { s.tx b with
          csum := accumulate s.csum b
          idx := s.idx + 1
          phase := if s.idx.toNat + 1 = (src.len s).toNat then .txSum else .txPay })

/-- Step TX_SUM: the checksum byte, and the end of the attempt's emission (R146). -/
def emitSum (s : State) : Result :=
  s.whenAccepts (.next
    (if s.op.acked then (s.tx s.csum).enterAckWait else { s.tx s.csum with phase := .idle }))

/-- The step of an outgoing frame at the sequencer's position; outside the four emission phases no step of it is
enabled (log 4). -/
def emit (m : Mode) (src : Source) (s : State) : Result :=
  match s.phase with
  | .txHdr => emitHdr m src s
  | .txLen => emitLen src s
  | .txPay => emitPay src s
  | .txSum => emitSum s
  | .idle | .ackWait | .rxPre | .rxFill | .rxPost | .rxLen | .rxData | .rxTrail => .next s

/-- FRAME_A: one step of a mode A frame around LEN bytes of PBUF (R94). -/
def execFrameA (s : State) : Result := emit .A .payload s

/-- FRAME_B: one step of a mode B frame around LEN bytes of PBUF (R95). -/
def execFrameB (s : State) : Result := emit .B .payload s

/-- QUERY_FILL_FRAME: one step of the mode B frame around `QF` (R103, 42_receive_path.md R171). -/
def execQueryFillFrame (s : State) : Result := emit .B .queryFill s

/-- QUERY_READ_FRAME: one step of the mode B frame around `QS` (R103, R171). -/
def execQueryReadFrame (s : State) : Result := emit .B .queryRead s

end Sys2Proof.Machine
end

