-- ==== Sys2Proof/Machine/Replies.lean ====
section
/-! DEFINITION. The reply parser (42_receive_path.md R170 to R183): each step consumes exactly one byte of RXQ, by
position, and waits while there is none. -/

namespace Sys2Proof.Machine

/-- Steps RX_PRE and RX_POST: drop a byte, and leave the phase when `count` have been dropped (R174, R176). -/
def dropByte (count : Nat) (stay leave : Phase) (s : State) : Result :=
  s.onByte fun _ t =>
    .next { t with idx := t.idx + 1, phase := if t.idx.toNat + 1 = count then leave else stay }

/-- Step RX_FILL: the fill level, as it is (R175). -/
def takeFill (s : State) : Result :=
  s.onByte fun b t => .next { t with fill := b, idx := 0, phase := .rxPost }

/-- Step RX_LEN: the length byte of a buffer reply, every value accepted (R178). -/
def takeCount (s : State) : Result :=
  s.onByte fun n t =>
    .next { t with rcount := n, idx := 0, phase := if 0 < n.toNat then .rxData else .rxTrail }

/-- Step RX_DATA: one reply byte into RBUF[IDX] (R179); RBUF has no cell 255 (R60). -/
def takeData (s : State) : Result :=
  s.onByte fun b t =>
    if t.idx.toNat < bufCells then
      .next
        { t with
          rbuf := t.rbuf.write t.idx.toNat b
          idx := t.idx + 1
          phase := if t.idx.toNat + 1 = t.rcount.toNat then .rxTrail else .rxData }
    else .fault .noSuchCell

/-- Step RX_TRAIL: drop the trailing byte, which completes RDBUF (R180). -/
def dropTrail (s : State) : Result :=
  s.onByte fun _ t => .next { t with phase := .idle }

/-- FILL_REPLY: the engine's step at its position in a fill reply (30_encoding.md R101); in any other phase no step of
it is enabled (log 4). -/
def execFillReply (s : State) : Result :=
  match s.phase with
  | .rxPre => dropByte fillPre .rxPre .rxFill s
  | .rxFill => takeFill s
  | .rxPost => dropByte fillPost .rxPost .idle s
  | .idle | .txHdr | .txLen | .txPay | .txSum | .ackWait | .rxLen | .rxData | .rxTrail => .next s

/-- BUFFER_REPLY: the engine's step at its position in a buffer reply (R102); in any other phase no step of it is
enabled (log 4). -/
def execBufferReply (s : State) : Result :=
  match s.phase with
  | .rxLen => takeCount s
  | .rxData => takeData s
  | .rxTrail => dropTrail s
  | .idle | .txHdr | .txLen | .txPay | .txSum | .ackWait | .rxPre | .rxFill | .rxPost => .next s

end Sys2Proof.Machine
end

