-- ==== Sys2Proof/Machine/Dispatch.lean ====
section
/-! DEFINITION. One arm per row of the opcode table. -/

namespace Sys2Proof.Machine

def exec (i : Instr) (s : State) : Host.Outcome State Fault Refusal :=
  match i with
  | .send => Sys2Proof.Machine.execSend s
  | .sendb => Sys2Proof.Machine.execSendb s
  | .sendna => Sys2Proof.Machine.execSendna s
  | .sendbna => Sys2Proof.Machine.execSendbna s
  | .qfill => Sys2Proof.Machine.execQfill s
  | .rdbuf => Sys2Proof.Machine.execRdbuf s
  | .openLine => Sys2Proof.Machine.execOpenLine s
  | .reservedOpcode7 => Sys2Proof.Machine.execReservedOpcode7 s
  | .reservedBits hi opc => Sys2Proof.Machine.execReservedBits hi opc s
  | .frameA => Sys2Proof.Machine.execFrameA s
  | .frameB => Sys2Proof.Machine.execFrameB s
  | .queryFillFrame => Sys2Proof.Machine.execQueryFillFrame s
  | .queryReadFrame => Sys2Proof.Machine.execQueryReadFrame s
  | .ackByte => Sys2Proof.Machine.execAckByte s
  | .fillReply => Sys2Proof.Machine.execFillReply s
  | .bufferReply => Sys2Proof.Machine.execBufferReply s

end Sys2Proof.Machine
end

