-- ==== Sys2Proof/Machine/Agents.lean ====
section
/-! DEFINITION. One step of each agent (10_state.md R20): the engine, the host and its access rules (R24 to R33, R196,
R197), the device and the transport. -/

namespace Sys2Proof.Machine

/-- The engine's step: it runs the wire format it is inside, one byte of it; idle, it does nothing (R70). -/
def engineStep (s : State) : Result :=
  match s.inProgress with
  | some i => exec i s
  | none => .next s

/-- The registers by name (R25). -/
inductive Reg
  | cmd | status | len | fill | rcount | baud | reserved
  deriving DecidableEq, Repr

/-- The register a number names (R25). -/
def regOf (n : BitVec 4) : Reg :=
  match n.toNat with
  | 0 => .cmd
  | 1 => .status
  | 2 => .len
  | 3 => .fill
  | 4 => .rcount
  | 5 => .baud
  | _ => .reserved

/-- The cell width of a target: one byte, but `BAUD_W` for BAUD (20_memory.md R60). -/
def Target.width (c : Config) : Target → Nat
  | .reg n => if regOf n = .baud then c.baudW else 8
  | .pbuf _ | .rbuf _ => 8

/-- Whether write data fits its cell. -/
def HostOp.wellFormed (c : Config) : HostOp → Bool
  | .read _ => true
  | .write t v => decide (v < 2 ^ t.width c)

/-- A read returns a value to the host and changes nothing else (R26). -/
def State.returns (v : Nat) (s : State) : Result := .next { s with readLog := s.readLog ++ [v] }

/-- A result cell: its value once the operation is over; while BUSY = 1 an unspecified value, drawn free (R31, R32, U6;
log 8), also of a cell nothing has written since reset. That the free value wins there over the fault of R46 and U7 is a
DESIGN CHOICE (log 23): safe, nothing is known of the value. -/
def State.returnsResult (v : Except Fault Byte) (s : State) : Result :=
  if s.busy then
    .next { s with readLog := s.readLog ++ [(Config.freeByte s.draws).toNat], draws := s.draws + 1 }
  else
    match v with
    | .ok b => s.returns b.toNat
    | .error f => .fault f

/-- A host read of a register (R25): CMD and the reserved numbers read 0 (R26). -/
def readReg (n : BitVec 4) (s : State) : Result :=
  match regOf n with
  | .cmd => s.returns 0
  | .status => s.returns s.status.toNat
  | .len => s.returns s.len.toNat
  | .fill => s.returnsResult (.ok s.fill)
  | .rcount => s.returnsResult (.ok s.rcount)
  | .baud => s.returns s.baud
  | .reserved => s.returns 0

/-- A host read of PBUF: index 255 reads 0 (R26); harmless while BUSY = 1 (R197). -/
def readPbuf (i : Byte) (s : State) : Result :=
  if i.toNat < bufCells then
    match s.pbuf.cell i.toNat with
    | .ok b => s.returns b.toNat
    | .error f => .fault f
  else s.returns 0

/-- A host read of RBUF: index 255 reads 0 (R26); a result cell (R32). -/
def readRbuf (i : Byte) (s : State) : Result :=
  if i.toNat < bufCells then s.returnsResult (s.rbuf.cell i.toNat) else s.returns 0

/-- A host read (R26). -/
def hostRead (t : Target) (s : State) : Result :=
  match t with
  | .reg n => readReg n s
  | .pbuf i => readPbuf i s
  | .rbuf i => readRbuf i s

/-- A host write that BUSY = 1 makes ignored (R197). -/
def State.unlessBusy (s : State) (t : State) : Result := if s.busy then .next s else .next t

/-- A host write of a register: CMD is the only way an operation starts (R27); writes to read-only and reserved
registers are ignored (R26). -/
def writeReg (n : BitVec 4) (v : Nat) (s : State) : Result :=
  match regOf n with
  | .cmd => exec (decodeCmd (BitVec.ofNat 8 v)) s
  | .len => s.unlessBusy { s with len := BitVec.ofNat 8 v }
  | .baud => s.unlessBusy { s with baud := v }
  | .status | .fill | .rcount | .reserved => .next s

/-- A host write of PBUF (R30); index 255 is ignored (R26). -/
def writePbuf (i : Byte) (v : Nat) (s : State) : Result :=
  if i.toNat < bufCells then s.unlessBusy { s with pbuf := s.pbuf.write i.toNat (BitVec.ofNat 8 v) } else .next s

/-- A host write; RBUF is the engine's to write, and a host write of it is ignored (20_memory.md R60, D10). Data wider
than the cell is refused (log 15). -/
def hostWrite (t : Target) (v : Nat) (s : State) : Result :=
  if v < 2 ^ t.width s.cfg then
    match t with
    | .reg n => writeReg n v s
    | .pbuf i => writePbuf i v s
    | .rbuf _ => .next s
  else .refused .dataTooWide

/-- One host transaction (R43). -/
def hostStep (op : HostOp) (s : State) : Result :=
  match op with
  | .read t => hostRead t s
  | .write t v => hostWrite t v s

/-- One step of the agent that `inp` names (R20, R21; log 1). -/
def agentStep (inp : Input) (s : State) : Result :=
  match inp with
  | .engine => engineStep s
  | .host op => hostStep op s
  | .device v => s.deviceAppend v
  | .txReady b => .next { s with txReady := b }
  | .txDrain => .next s.drain
  | .reset => .next s.resetNow

/-- The next agent's step: the oldest input, or the engine when there is none (R21, R238 a; log 1). -/
def nextStep (s : State) : Result :=
  match s.inputs with
  | [] => engineStep s
  | inp :: rest => agentStep inp { s with inputs := rest }

/-- The buffer that holds `bytes` from index 0 on. -/
def bufferOf : Nat → List Byte → Memory
  | _, [] => []
  | i, b :: bs => (i, b) :: bufferOf (i + 1) bs

/-- The state in which the very next step runs the message `m`: a command is a host write of CMD; a wire format is the
sequencer at its first byte, with the operands it reads standing in LEN and PBUF or in RXQ (logs 2, 3). -/
def State.placing (m : Message) (s : State) : State :=
  match m with
  | .command i =>
    { s with inputs := .host (.write (.reg 0) ((encodeCmd i).getD 0).toNat) :: s.inputs }
  | .frameA p =>
    { s with
      inputs := .engine :: s.inputs, phase := .txHdr, opened := true, op := .send, compact := false
      len := countByte p.length, pbuf := bufferOf 0 p }
  | .frameB p =>
    { s with
      inputs := .engine :: s.inputs, phase := .txHdr, opened := true, op := .sendb
      len := countByte p.length, pbuf := bufferOf 0 p }
  | .queryFillFrame => { s with inputs := .engine :: s.inputs, phase := .txHdr, opened := true, op := .qfill }
  | .queryReadFrame => { s with inputs := .engine :: s.inputs, phase := .txHdr, opened := true, op := .rdbuf }
  | .ackByte a => { s with inputs := .engine :: s.inputs, phase := .ackWait, opened := true, rxq := [a] }
  | .fillReply r0 r1 level r3 r4 =>
    { s with
      inputs := .engine :: s.inputs, phase := .rxPre, opened := true, op := .qfill, idx := 0
      rxq := [r0, r1, level, r3, r4] }
  | .bufferReply d t =>
    { s with
      inputs := .engine :: s.inputs, phase := .rxLen, opened := true, op := .rdbuf
      rxq := countByte d.length :: d ++ [t] }

/-- `placing` for a table row's bits; bits that are no row leave the state as it is. -/
def State.placingWord (nbits w : Nat) (s : State) : State :=
  match decodeTable nbits w with
  | some m => s.placing m
  | none => s

end Sys2Proof.Machine
end

