-- ==== Sys2Proof/Machine/Step.lean ====
section
/-! DEFINITION. The machine's step. -/

namespace Sys2Proof.Machine

/-- One step of the machine (10_state.md R21). -/
def step (s : State) : Host.Outcome State Fault Refusal := nextStep s

/-- The state with a table row's instruction where `step` fetches its next one (log 2). -/
def State.withFetchWord (s : State) (nbits w : Nat) : State := s.placingWord nbits w

end Sys2Proof.Machine
end

