-- ==== Sys2Proof/Safety.lean ====
section
/-! DEFINITION. What a safe run is, the premises of a claim about an operation, and the invariants of the machine. -/

namespace Sys2Proof.Machine

/-- The outcome is a next state: neither a fault nor a refusal. -/
def Safe (r : Result) : Prop := ∃ t, r = .next t

/-- Every run of `k` steps from `s` ends in a next state. -/
def State.RunsSafely (s : State) (k : Nat) : Prop := ∃ t, Sys2Proof.core.run k s = .next t

/-- `mode(OP)` of the operation in progress (00_scope.md R12). -/
def State.mode (s : State) : Mode := s.op.mode s.compact

/-- `L(OP)` of the operation in progress (R12), as a number. -/
def State.payloadLen (s : State) : Nat := (s.op.source.len s).toNat

/-- The bytes of `P(OP)` below index `n` that are there to be sent. -/
def State.payloadBelow (s : State) (n : Nat) : List Byte :=
  (List.range n).filterMap fun i => (s.op.source.byte s i).toOption

/-- `P(OP)` is the byte list `p`: every cell of it is written (R12, 70_reset_and_hazards.md R223). -/
def State.PayloadIs (s : State) (p : List Byte) : Prop :=
  p.length = s.payloadLen ∧ ∀ i (h : i < p.length), s.op.source.byte s i = .ok p[i]

/-- No reset is to come. -/
def State.NoResetComes (s : State) : Prop := ∀ inp ∈ s.inputs, inp ≠ .reset

/-- The premises of a claim at the issue of operation `o` with payload `p` ("clean entry", R241): open, idle, RXQ empty,
no reset during the operation, and, for the SEND family, LEN and PBUF[0..LEN-1] hold `p`. A query needs nothing
written: its `P(OP)` is the engine's constant (70_reset_and_hazards.md R223). -/
def State.CleanEntry (s : State) (o : Op) (p : List Byte) : Prop :=
  s.opened = true ∧ s.phase = .idle ∧ s.rxq = [] ∧ s.NoResetComes ∧ (s.issue o).PayloadIs p

/-- The frame of a payload in a mode (30_encoding.md R94, R95). -/
def frameOf (m : Mode) (p : List Byte) : List Byte :=
  match m with
  | .A => encode (.frameA p)
  | .B => encode (.frameB p)

/-- The bytes of the current attempt handed to the transport so far, in the phases TX_LEN, TX_PAY and TX_SUM: header,
length byte in mode A once it is sent, payload bytes below IDX (41_send_path.md R142 to R145). -/
def State.sentSoFar (s : State) : List Byte :=
  s.mode.hdr :: ((if s.mode = .A ∧ s.phase ≠ .txLen then [s.op.source.len s] else []) ++ s.payloadBelow s.idx.toNat)

/-- What a phase says of OP and IDX (10_state.md R35, R38; 41_send_path.md R143, R145; 42_receive_path.md R174 to R180). -/
def State.SequencerOk (s : State) : Prop :=
  match s.phase with
  | .idle | .txHdr | .txSum => True
  | .txLen => s.mode = .A ∧ s.idx = 0
  | .txPay => s.idx.toNat < s.payloadLen
  | .ackWait => s.op.acked = true
  | .rxPre | .rxPost => s.op = .qfill ∧ s.idx.toNat < 2
  | .rxFill => s.op = .qfill
  | .rxLen | .rxTrail => s.op = .rdbuf
  | .rxData => s.op = .rdbuf ∧ s.idx.toNat < s.rcount.toNat

/-- The invariant of the machine. -/
structure State.Inv (s : State) : Prop where
  /-- The buffers keep their canonical form and list only cells they have (R30, R32). -/
  pbuf_wf : s.pbuf.wf = true
  pbuf_inRange : s.pbuf.inRange = true
  rbuf_wf : s.rbuf.wf = true
  rbuf_inRange : s.rbuf.inRange = true
  /-- BAUD fits its width (R33). -/
  baud_fits : s.baud < 2 ^ s.cfg.baudW
  /-- COMPACT is the strap's value (R22). -/
  compact_strap : s.compact = s.cfg.compactStrap
  /-- The channel is open exactly when the transport was given a baud value (R34, R121). -/
  opened_line : s.opened = s.lineBaud.isSome
  /-- No operation but OPEN runs, nothing is sent and nothing received before OPEN (R41, R141, R171). -/
  busy_opened : s.phase ≠ .idle → s.opened = true
  closed_rx : s.opened = false → s.rxq = []
  closed_tx : s.opened = false → s.txlog = []
  /-- RXQ holds at most `RX_DEPTH` bytes (R41). -/
  rx_fits : ∀ d, s.cfg.rxDepth = some d → s.rxq.length ≤ d
  /-- The transmit buffer holds the newest bytes of TXLOG (R40, R123). -/
  txbuf_suffix : s.txbuf <:+ s.txlog
  /-- PHASE, OP and IDX agree. -/
  sequencer : s.SequencerOk
  /-- The quiescence timer is used in ACK_WAIT of the bounded variant alone (R204). -/
  timer_used : s.timer = .running → s.cfg.boundedWait = true ∧ s.phase = .ackWait
  /-- In the bounded variant, waiting with RXQ empty always has the timer going (R204). -/
  timer_going : s.cfg.boundedWait = true → s.phase = .ackWait → s.rxq = [] → s.timer = .running

/-- Within an attempt the bytes sent so far are the newest of TXLOG, CSUM is their sum, and in TX_SUM the whole payload
has been sent (R39, R157). -/
def State.EmissionInv (s : State) : Prop :=
  match s.phase with
  | .txLen => s.mode = .A ∧ s.idx = 0 ∧ s.sentSoFar <:+ s.txlog ∧ s.csum = checksum s.sentSoFar
  | .txPay => s.idx.toNat < s.payloadLen ∧ s.sentSoFar <:+ s.txlog ∧ s.csum = checksum s.sentSoFar
  | .txSum => s.idx.toNat = s.payloadLen ∧ s.sentSoFar <:+ s.txlog ∧ s.csum = checksum s.sentSoFar
  | .idle | .txHdr | .ackWait | .rxPre | .rxFill | .rxPost | .rxLen | .rxData | .rxTrail => True

/-- The phases of an attempt: emission and the wait for its acknowledgment. -/
def Phase.inAttempt : Phase → Bool
  | .txHdr | .txLen | .txPay | .txSum | .ackWait => true
  | .idle | .rxPre | .rxFill | .rxPost | .rxLen | .rxData | .rxTrail => false

/-- The phases of emission. -/
def Phase.emits : Phase → Bool
  | .txHdr | .txLen | .txPay | .txSum => true
  | .idle | .ackWait | .rxPre | .rxFill | .rxPost | .rxLen | .rxData | .rxTrail => false

/-- Where one step can take a phase, staying included (41_send_path.md R160, 42_receive_path.md R183). -/
def Phase.edges : Phase → List Phase
  | .idle => [.idle, .txHdr]
  | .txHdr => [.txHdr, .txLen, .txPay, .txSum]
  | .txLen => [.txLen, .txPay, .txSum]
  | .txPay => [.txPay, .txSum]
  | .txSum => [.txSum, .ackWait, .idle]
  | .ackWait => [.ackWait, .txHdr, .idle, .rxPre, .rxLen]
  | .rxPre => [.rxPre, .rxFill]
  | .rxFill => [.rxFill, .rxPost]
  | .rxPost => [.rxPost, .idle]
  | .rxLen => [.rxLen, .rxData, .rxTrail]
  | .rxData => [.rxData, .rxTrail]
  | .rxTrail => [.rxTrail, .idle]

/-- An acknowledged operation whose acknowledgment has not come (60_exceptions.md R194). -/
def State.Unacknowledged (s : State) : Prop := s.phase.inAttempt = true ∧ s.op.acked = true

/-- Nothing that has arrived or will arrive is the positive acknowledgment, and no reset comes. -/
def State.NoAckComes (s : State) : Prop :=
  (∀ b ∈ s.rxq, b ≠ s.cfg.ackCode) ∧ ∀ inp ∈ s.inputs, inp ≠ .reset ∧ inp ≠ .device s.cfg.ackCode

/-- The inputs of one attempt of a frame of `n` bytes that the device answers with `b`. -/
def attempt (n : Nat) (b : Byte) : List Input := List.replicate n .engine ++ [.device b, .engine]

/-- The next agent's step is not the reset input. -/
def State.noReset (s : State) : Prop := s.inputs.head? ≠ some .reset

end Sys2Proof.Machine
end

