-- ==== Sys2Proof/Certificates/Slice0/Obligations.lean ====
section
/-! DEFINITION. The statements for the provers. They are about states and operands, never about a program. -/

open Sys2Proof Sys2Proof.Machine

/-! Encodings -/

/-- R91 to R93: a command byte by its reserved bits, then by its opcode. -/
def Obligations.CommandBytesDecode : Prop :=
  decodeCmd 0x00 = .send ∧ decodeCmd 0x01 = .sendb ∧ decodeCmd 0x02 = .sendna ∧ decodeCmd 0x03 = .sendbna ∧
  decodeCmd 0x04 = .qfill ∧ decodeCmd 0x05 = .rdbuf ∧ decodeCmd 0x06 = .openLine ∧
  decodeCmd 0x07 = .reservedOpcode7 ∧
  ∀ (hi : BitVec 5) (opc : BitVec 3), hi ≠ 0 → decodeCmd (hi ++ opc) = .reservedBits hi opc

/-- Written-out bytes of each wire format decode to it (R94, R95, R100 to R103, and the frames of E2, E4); the codes of
'I' and 'S' are PRESUMED (log 21), the rows of the query frames come first by log 18. -/
def Obligations.WireBytesDecode : Prop :=
  decode .wireOut [0x11, 0x03, 0x1B, 0x44, 0x4C, 0xBF] = .ok (.frameA [0x1B, 0x44, 0x4C]) ∧
  decode .wireOut [0x12, 0x10, 0x20, 0x30, 0x72] = .ok (.frameB [0x10, 0x20, 0x30]) ∧
  decode .wireOut [0x12, 0x01, 0x49, 0x5C] = .ok .queryFillFrame ∧
  decode .wireOut [0x12, 0x01, 0x53, 0x66] = .ok .queryReadFrame ∧
  decode .ackWait [0x15] = .ok (.ackByte 0x15) ∧
  decode .fillReply [0x55, 0x66, 0x2A, 0x77, 0x88] = .ok (.fillReply 0x55 0x66 0x2A 0x77 0x88) ∧
  decode .bufferReply [0x03, 0xAA, 0xBB, 0xCC, 0x00] = .ok (.bufferReply [0xAA, 0xBB, 0xCC] 0x00)

/-- Decode of encode, for every well-formed unit of every row. The one unit that is not read back as itself is a mode B
frame around a query payload, whose bytes are the query frame's (R103; log 18). -/
def Obligations.DecodeOfEncodeIsCanonical : Prop :=
  ∀ m : Message, m.wellFormed = true →
    decode m.channel (encode m) = .ok m.canon ∧
    (m.canon = m ∨ (m = .frameB payloadQF ∧ m.canon = .queryFillFrame) ∨
      (m = .frameB payloadQS ∧ m.canon = .queryReadFrame))

/-- Whatever the decoder accepts on a channel is a well-formed unit of that channel, and its encoding is those bytes. That
the unit is canonical, so that the bytes of a query frame never read as a mode B frame (R103), is the model's choice
(log 18). -/
def Obligations.EncodeOfDecodeIsTheBytes : Prop :=
  ∀ (ch : Channel) (bytes : List Byte) (m : Message), decode ch bytes = .ok m →
    m.channel = ch ∧ m.wellFormed = true ∧ m.canon = m ∧ encode m = bytes

/-- R97, over integers: the checksum byte of either frame. -/
def Obligations.ChecksumIsTheSumModulo256 : Prop :=
  ∀ p : List Byte, p.length ≤ 255 →
    encode (.frameA p) = 0x11 :: BitVec.ofNat 8 p.length :: p ++
      [BitVec.ofNat 8 ((0x11 + p.length + (p.map BitVec.toNat).sum) % 256)] ∧
    encode (.frameB p) = 0x12 :: p ++ [BitVec.ofNat 8 ((0x12 + (p.map BitVec.toNat).sum) % 256)]

/-! The step -/

/-- The next step is the host's transaction, whatever it is (R20, R21, R24, R43), and it runs what is fetched: a byte the
host writes to CMD, or the wire format the engine is inside; idle, the engine's own turn does nothing (R27, R70, R220). That the agents take turns as `inputs` says, and that a wire format is
what the engine runs, are the model's (logs 1, 3). -/
def Obligations.StepRunsTheFetchedInstruction : Prop :=
  ∀ (s : State) (rest : List Input),
    (∀ op : HostOp, s.inputs = .host op :: rest → step s = hostStep op { s with inputs := rest }) ∧
    (∀ b : Byte, s.inputs = .host (.write (.reg 0) b.toNat) :: rest →
      step s = exec (decodeCmd b) { s with inputs := rest }) ∧
    (∀ i : Instr, s.inProgress = some i →
      (s.inputs = .engine :: rest → step s = exec i { s with inputs := rest }) ∧
      (s.inputs = [] → step s = exec i s)) ∧
    (s.phase = .idle →
      (s.inputs = .engine :: rest → step s = .next { s with inputs := rest }) ∧
      (s.inputs = [] → step s = .next s))

/-- R96, R103: the wire format in progress, by PHASE, OP and COMPACT (log 3). -/
def Obligations.FormatInProgress : Prop :=
  ∀ s : State,
    (s.phase.emits = true →
      (s.op = .send ∨ s.op = .sendna → s.compact = false → s.inProgress = some .frameA) ∧
      (s.op = .send ∨ s.op = .sendna → s.compact = true → s.inProgress = some .frameB) ∧
      (s.op = .sendb ∨ s.op = .sendbna → s.inProgress = some .frameB) ∧
      (s.op = .qfill → s.inProgress = some .queryFillFrame) ∧
      (s.op = .rdbuf → s.inProgress = some .queryReadFrame)) ∧
    (s.phase = .ackWait → s.inProgress = some .ackByte) ∧
    (s.phase = .rxPre ∨ s.phase = .rxFill ∨ s.phase = .rxPost → s.inProgress = some .fillReply) ∧
    (s.phase = .rxLen ∨ s.phase = .rxData ∨ s.phase = .rxTrail → s.inProgress = some .bufferReply) ∧
    (s.phase = .idle → s.inProgress = none)

/-! Commands -/

/-- R141, the acceptance clause. -/
def Obligations.SendFamilyStarts : Prop :=
  ∀ s : State, s.phase = .idle → s.opened = true →
    exec .send s = .next { s with op := .send, phase := .txHdr } ∧
    exec .sendb s = .next { s with op := .sendb, phase := .txHdr } ∧
    exec .sendna s = .next { s with op := .sendna, phase := .txHdr } ∧
    exec .sendbna s = .next { s with op := .sendbna, phase := .txHdr }

/-- R171, the acceptance clause. -/
def Obligations.QueriesStart : Prop :=
  ∀ s : State, s.phase = .idle → s.opened = true →
    exec .qfill s = .next { s with op := .qfill, phase := .txHdr } ∧
    exec .rdbuf s = .next { s with op := .rdbuf, phase := .txHdr }

/-- R121: OPEN hands BAUD to the transport, sets OPENED and completes at once. That it completes also where nothing has
written BAUD since reset, where R121 and R46 have a model fault, is the model's choice (log 6). -/
def Obligations.OpenOpensTheTransport : Prop :=
  ∀ s : State, s.phase = .idle → s.opened = false →
    exec .openLine s = .next { s with opened := true, lineBaud := some s.baud }

/-- R93: the two reserved rows change nothing (ignored, not refused: log 5). -/
def Obligations.ReservedCommandsChangeNothing : Prop :=
  ∀ (s : State) (hi : BitVec 5) (opc : BitVec 3),
    exec .reservedOpcode7 s = .next s ∧ exec (.reservedBits hi opc) s = .next s

/-- R196, its five cases: the ignored CMD writes (ignored, not refused: log 5). -/
def Obligations.UnacceptedCommandsAreIgnored : Prop :=
  ∀ (s : State) (b : Byte),
    b.toNat / 8 ≠ 0 ∨ b.toNat % 8 = 7 ∨ s.phase ≠ .idle ∨ (b.toNat % 8 ≤ 5 ∧ s.opened = false) ∨
      (b.toNat % 8 = 6 ∧ s.opened = true) →
    hostStep (.write (.reg 0) b.toNat) s = .next s

/-- The frame of every command row: only OP and PHASE (an operation starts), or only OPENED and the line's baud value
(OPEN), can change; every buffer cell reads as before. -/
def Obligations.CommandFrame : Prop :=
  ∀ (i : Instr) (s t : State), i.isCommand = true → exec i s = .next t →
    t = { s with op := t.op, phase := t.phase, opened := t.opened, lineBaud := t.lineBaud } ∧
    (i ≠ .openLine → t.opened = s.opened ∧ t.lineBaud = s.lineBaud) ∧
    (i = .openLine → t.op = s.op ∧ t.phase = s.phase) ∧
    ∀ a, t.pbuf.read a = s.pbuf.read a ∧ t.rbuf.read a = s.rbuf.read a

/-! Frame emission -/

/-- R142, for the operation in progress with `hdr`, `mode` and `L` of R12, and for each of the four formats. That a sent
byte also stands in the transmit buffer is the model's (log 14), here and in the next step statements; so is that the
step goes on where nothing has written LEN since reset (log 6; R46, U7 have a model fault). -/
def Obligations.TxHdrStep : Prop :=
  ∀ s : State, s.phase = .txHdr → s.txReady = true →
    engineStep s = .next
      { s with
        txlog := s.txlog ++ [s.mode.hdr], txbuf := s.txbuf ++ [s.mode.hdr], csum := s.mode.hdr, idx := 0
        phase := if s.mode = .A then .txLen else if 0 < s.payloadLen then .txPay else .txSum } ∧
    exec .frameA s = .next
      { s with txlog := s.txlog ++ [0x11], txbuf := s.txbuf ++ [0x11], csum := 0x11, idx := 0, phase := .txLen } ∧
    exec .frameB s = .next
      { s with
        txlog := s.txlog ++ [0x12], txbuf := s.txbuf ++ [0x12], csum := 0x12, idx := 0
        phase := if 0 < s.len.toNat then .txPay else .txSum } ∧
    exec .queryFillFrame s = .next
      { s with txlog := s.txlog ++ [0x12], txbuf := s.txbuf ++ [0x12], csum := 0x12, idx := 0, phase := .txPay } ∧
    exec .queryReadFrame s = .next
      { s with txlog := s.txlog ++ [0x12], txbuf := s.txbuf ++ [0x12], csum := 0x12, idx := 0, phase := .txPay }

/-- R143, the step. That it sends LEN also where nothing has written it since reset is the model's choice (log 6; R46, U7
have a model fault); the transmit buffer is the model's (log 14). -/
def Obligations.TxLenStep : Prop :=
  ∀ s : State, s.phase = .txLen → s.txReady = true →
    exec .frameA s = .next
      { s with
        txlog := s.txlog ++ [s.len], txbuf := s.txbuf ++ [s.len], csum := s.csum + s.len
        phase := if 0 < s.len.toNat then .txPay else .txSum }

/-- R145, the step, for a written payload cell and for the bytes of the two query payloads. The codes 0x49 and 0x53 are
PRESUMED (log 21); LEN is compared also where nothing has written it since reset (log 6); the transmit buffer is the
model's (log 14). A cell that is not there is `UnwrittenPayloadCellFaults`. -/
def Obligations.TxPayStep : Prop :=
  ∀ s : State, s.phase = .txPay → s.txReady = true →
    (∀ b : Byte, s.idx.toNat < 255 → s.pbuf.read s.idx.toNat = some b →
      ∀ i : Instr, i = .frameA ∨ i = .frameB →
        exec i s = .next
          { s with
            txlog := s.txlog ++ [b], txbuf := s.txbuf ++ [b], csum := s.csum + b, idx := s.idx + 1
            phase := if s.idx.toNat + 1 = s.len.toNat then .txSum else .txPay }) ∧
    (s.idx = 0 → ∀ i : Instr, i = .queryFillFrame ∨ i = .queryReadFrame →
        exec i s = .next
          { s with
            txlog := s.txlog ++ [0x01], txbuf := s.txbuf ++ [0x01], csum := s.csum + 0x01, idx := 1
            phase := .txPay }) ∧
    (s.idx = 1 →
        exec .queryFillFrame s = .next
          { s with
            txlog := s.txlog ++ [0x49], txbuf := s.txbuf ++ [0x49], csum := s.csum + 0x49, idx := 2
            phase := .txSum } ∧
        exec .queryReadFrame s = .next
          { s with
            txlog := s.txlog ++ [0x53], txbuf := s.txbuf ++ [0x53], csum := s.csum + 0x53, idx := 2
            phase := .txSum })

/-- R46, R74: the engine's read of a payload cell nothing has written is a fault (log 7); and, from no reachable state
(R38), of index 255 or past the two bytes of a query payload (log 19). -/
def Obligations.UnwrittenPayloadCellFaults : Prop :=
  ∀ s : State, s.phase = .txPay → s.txReady = true →
    (s.idx.toNat < 255 → s.pbuf.read s.idx.toNat = none →
      exec .frameA s = .fault .unwrittenCell ∧ exec .frameB s = .fault .unwrittenCell) ∧
    (s.idx = 255 → exec .frameA s = .fault .noSuchCell ∧ exec .frameB s = .fault .noSuchCell) ∧
    (2 ≤ s.idx.toNat →
      exec .queryFillFrame s = .fault .noSuchCell ∧ exec .queryReadFrame s = .fault .noSuchCell)

/-- R146, for the operation in progress and each of the four formats; entering ACK_WAIT starts the quiescence timer in
the bounded variant (R204; log 11). -/
def Obligations.TxSumStep : Prop :=
  ∀ s : State, s.phase = .txSum → s.txReady = true →
    ∀ i : Instr, i = .frameA ∨ i = .frameB ∨ i = .queryFillFrame ∨ i = .queryReadFrame →
      (s.op ≠ .sendna → s.op ≠ .sendbna →
        exec i s = .next
          { s with
            txlog := s.txlog ++ [s.csum], txbuf := s.txbuf ++ [s.csum], phase := .ackWait
            timer := if s.cfg.boundedWait = true then .running else .stopped }) ∧
      (s.op = .sendna ∨ s.op = .sendbna →
        exec i s = .next { s with txlog := s.txlog ++ [s.csum], txbuf := s.txbuf ++ [s.csum], phase := .idle })

/-- R123: while the transport accepts no byte, an emission step leaves the engine as it is; and the transport's own steps
(R44, R123; log 14): the handshake sets the acceptance line and nothing else, the drain takes the oldest byte out of the
transmit buffer and nothing else, TXLOG among what stays, and an empty buffer gives nothing. -/
def Obligations.EmissionWaitsForTheTransport : Prop :=
  ∀ s : State,
    (∀ i : Instr, i = .frameA ∨ i = .frameB ∨ i = .queryFillFrame ∨ i = .queryReadFrame →
      s.phase.emits = true → s.txReady = false → exec i s = .next s) ∧
    (∀ (accepts : Bool) (rest : List Input), s.inputs = .txReady accepts :: rest →
      step s = .next { s with inputs := rest, txReady := accepts }) ∧
    (∀ rest : List Input, s.inputs = .txDrain :: rest →
      (∀ (b : Byte) (later : List Byte), s.txbuf = b :: later → step s = .next { s with inputs := rest, txbuf := later }) ∧
      (s.txbuf = [] → step s = .next { s with inputs := rest }))

/-- The frame of the four outgoing formats: TXLOG, the transmit buffer, CSUM, IDX, PHASE and the timer alone can change,
TXLOG and the transmit buffer by the same one byte at most (log 14), and every buffer cell reads as before. RXQ is among
what stays (R158). -/
def Obligations.EmissionFrame : Prop :=
  ∀ (i : Instr) (s t : State), i = .frameA ∨ i = .frameB ∨ i = .queryFillFrame ∨ i = .queryReadFrame →
    exec i s = .next t →
    t = { s with
          txlog := t.txlog, txbuf := t.txbuf, csum := t.csum, idx := t.idx, phase := t.phase, timer := t.timer } ∧
    (t.txlog = s.txlog ∧ t.txbuf = s.txbuf ∨ ∃ b, t.txlog = s.txlog ++ [b] ∧ t.txbuf = s.txbuf ++ [b]) ∧
    ∀ a, t.pbuf.read a = s.pbuf.read a ∧ t.rbuf.read a = s.rbuf.read a

/-! Acknowledgment and retry -/

/-- R148; that leaving ACK_WAIT stops the quiescence timer is DEDUCED (R204; log 11). -/
def Obligations.AckStep : Prop :=
  ∀ (s : State) (rest : List Byte), s.phase = .ackWait → s.rxq = s.cfg.ackCode :: rest →
    (s.op = .send ∨ s.op = .sendb →
      exec .ackByte s = .next { s with rxq := rest, phase := .idle, timer := .stopped }) ∧
    (s.op = .qfill → exec .ackByte s = .next { s with rxq := rest, phase := .rxPre, idx := 0, timer := .stopped }) ∧
    (s.op = .rdbuf → exec .ackByte s = .next { s with rxq := rest, phase := .rxLen, timer := .stopped })

/-- R149: exactly one byte is consumed and the frame starts again; nothing is recorded. The timer stops (log 11). -/
def Obligations.NakStep : Prop :=
  ∀ (s : State) (b : Byte) (rest : List Byte), s.phase = .ackWait → s.rxq = b :: rest → b ≠ s.cfg.ackCode →
    exec .ackByte s = .next { s with rxq := rest, phase := .txHdr, timer := .stopped }

/-- R150, R204, U5: in the bounded variant, whenever the engine waits with RXQ empty, its step starts the frame again;
nothing is consumed. The step comes at the engine's turn, or when no input is left (log 1); the timer stops (log 11). -/
def Obligations.TimeoutStep : Prop :=
  ∀ s : State, s.phase = .ackWait → s.rxq = [] → s.cfg.boundedWait = true →
    exec .ackByte s = .next { s with phase := .txHdr, timer := .stopped } ∧
    (s.inputs = [] → step s = .next { s with phase := .txHdr, timer := .stopped }) ∧
    (∀ rest : List Input, s.inputs = .engine :: rest →
      step s = .next { s with inputs := rest, phase := .txHdr, timer := .stopped })

/-- R194, R151: in the bounded variant an acknowledged operation whose device stays silent cycles through its frame and
ACK_WAIT for ever: for every N, with no input left, it sends N whole frames and is about to send another, BUSY = 1. From
ACK_WAIT one step more starts the cycle (logs 1, 11, 14). -/
def Obligations.ElapsedWindowRetries : Prop :=
  ∀ (s : State) (p : List Byte) (n : Nat),
    s.cfg.boundedWait = true → s.op.acked = true → s.rxq = [] → s.txReady = true → s.PayloadIs p → s.inputs = [] →
    (s.phase = .txHdr →
      ∃ t, Sys2Proof.core.run (n * ((frameOf s.mode p).length + 1)) s = .next t ∧
        t.txlog = s.txlog ++ (List.replicate n (frameOf s.mode p)).flatten ∧ t.phase = .txHdr ∧ t.rxq = [] ∧
        t.status.getLsbD 0 = true ∧ t.op = s.op ∧ t.len = s.len ∧ t.pbuf = s.pbuf) ∧
    (s.phase = .ackWait →
      ∃ t, Sys2Proof.core.run (n * ((frameOf s.mode p).length + 1) + 1) s = .next t ∧
        t.txlog = s.txlog ++ (List.replicate n (frameOf s.mode p)).flatten ∧ t.phase = .txHdr ∧ t.rxq = [] ∧
        t.status.getLsbD 0 = true ∧ t.op = s.op ∧ t.len = s.len ∧ t.pbuf = s.pbuf)

/-- R147: without a byte the engine of the authoritative variant waits for ever, whatever number of steps it is given,
and sends nothing. -/
def Obligations.AckWaitHasNoTimeout : Prop :=
  ∀ (s : State) (k : Nat), s.phase = .ackWait → s.rxq = [] → s.cfg.boundedWait = false →
    exec .ackByte s = .next s ∧ (s.inputs = [] → Sys2Proof.core.run k s = .next s)

/-- The frame of ACK_BYTE: RXQ, PHASE, IDX and the timer alone can change, RXQ by at most its oldest byte. -/
def Obligations.AckFrame : Prop :=
  ∀ s t : State, exec .ackByte s = .next t →
    t = { s with rxq := t.rxq, phase := t.phase, idx := t.idx, timer := t.timer } ∧
    (t.rxq = s.rxq ∨ ∃ b, s.rxq = b :: t.rxq) ∧
    (t.idx = s.idx ∨ s.op = .qfill) ∧
    ∀ a, t.pbuf.read a = s.pbuf.read a ∧ t.rbuf.read a = s.rbuf.read a

/-! Replies -/

/-- R174 to R176, one step each: two leading bytes are dropped, FILL takes the next as it is, two trailing bytes are
dropped. -/
def Obligations.FillReplySteps : Prop :=
  ∀ (s : State) (b : Byte) (rest : List Byte), s.rxq = b :: rest →
    (s.phase = .rxPre → exec .fillReply s = .next
      { s with rxq := rest, idx := s.idx + 1, phase := if s.idx.toNat + 1 = 2 then .rxFill else .rxPre }) ∧
    (s.phase = .rxFill → exec .fillReply s = .next { s with rxq := rest, fill := b, idx := 0, phase := .rxPost }) ∧
    (s.phase = .rxPost → exec .fillReply s = .next
      { s with rxq := rest, idx := s.idx + 1, phase := if s.idx.toNat + 1 = 2 then .idle else .rxPost })

/-- R178: the length byte of a buffer reply. -/
def Obligations.RxLenStep : Prop :=
  ∀ (s : State) (n : Byte) (rest : List Byte), s.phase = .rxLen → s.rxq = n :: rest →
    exec .bufferReply s = .next
      { s with rxq := rest, rcount := n, idx := 0, phase := if 0 < n.toNat then .rxData else .rxTrail }

/-- R179, the step: the byte goes to RBUF[IDX], every other cell reads as before. -/
def Obligations.RxDataStep : Prop :=
  ∀ (s : State) (b : Byte) (rest : List Byte), s.phase = .rxData → s.rxq = b :: rest → s.idx.toNat < s.rcount.toNat →
    exec .bufferReply s = .next
      { s with
        rxq := rest, rbuf := s.rbuf.write s.idx.toNat b, idx := s.idx + 1
        phase := if s.idx.toNat + 1 = s.rcount.toNat then .rxTrail else .rxData } ∧
    (s.rbuf.write s.idx.toNat b).read s.idx.toNat = some b ∧
    ∀ a, a ≠ s.idx.toNat → (s.rbuf.write s.idx.toNat b).read a = s.rbuf.read a

/-- R180: the trailing byte is dropped, not looked at, and RDBUF is complete. -/
def Obligations.RxTrailStep : Prop :=
  ∀ (s : State) (b : Byte) (rest : List Byte), s.phase = .rxTrail → s.rxq = b :: rest →
    exec .bufferReply s = .next { s with rxq := rest, phase := .idle }

/-- R170: a reply phase with RXQ empty waits, with no timeout in any variant, whatever number of steps it is given. -/
def Obligations.ReplyPhasesWait : Prop :=
  ∀ (s : State) (k : Nat), s.rxq = [] →
    exec .fillReply s = .next s ∧ exec .bufferReply s = .next s ∧
    (s.inputs = [] → s.phase.inAttempt = false → Sys2Proof.core.run k s = .next s)

/-- The frame of FILL_REPLY: RXQ, PHASE, IDX and, in RX_FILL alone, FILL can change. -/
def Obligations.FillReplyFrame : Prop :=
  ∀ s t : State, exec .fillReply s = .next t →
    t = { s with rxq := t.rxq, phase := t.phase, idx := t.idx, fill := t.fill } ∧
    (s.phase ≠ .rxFill → t.fill = s.fill) ∧ (t.rxq = s.rxq ∨ ∃ b, s.rxq = b :: t.rxq) ∧
    ∀ a, t.pbuf.read a = s.pbuf.read a ∧ t.rbuf.read a = s.rbuf.read a

/-- The frame of BUFFER_REPLY: RXQ, PHASE, IDX, in RX_LEN alone RCOUNT, and in RX_DATA alone the cell RBUF[IDX]. -/
def Obligations.BufferReplyFrame : Prop :=
  ∀ s t : State, exec .bufferReply s = .next t →
    t = { s with rxq := t.rxq, phase := t.phase, idx := t.idx, rcount := t.rcount, rbuf := t.rbuf } ∧
    (s.phase ≠ .rxLen → t.rcount = s.rcount) ∧ (t.rxq = s.rxq ∨ ∃ b, s.rxq = b :: t.rxq) ∧
    (∀ a, t.pbuf.read a = s.pbuf.read a) ∧
    (s.phase ≠ .rxData → ∀ a, t.rbuf.read a = s.rbuf.read a) ∧
    (∀ a, a ≠ s.idx.toNat → t.rbuf.read a = s.rbuf.read a)

/-! The host -/

/-- R26: a host read changes nothing but what it returns; a value drawn free advances the model's own counter. -/
def Obligations.HostReadsChangeNothing : Prop :=
  ∀ (s t : State) (c : Target), hostStep (.read c) s = .next t →
    ∃ v, t = { s with readLog := s.readLog ++ [v], draws := t.draws } ∧
      (s.busy = false → t.draws = s.draws)

/-- R25, R26: what a read of each register returns while the engine is idle, and of CMD, STATUS, LEN, BAUD and the
reserved numbers always. The value goes to `readLog`, the model's record (log 20). That LEN, BAUD, FILL and RCOUNT return
a value also before anything wrote them, where R46 and U7 have a model fault, is the model's choice (log 6). -/
def Obligations.RegisterReads : Prop :=
  ∀ s : State,
    hostStep (.read (.reg 0)) s = .next { s with readLog := s.readLog ++ [0] } ∧
    hostStep (.read (.reg 1)) s = .next { s with readLog := s.readLog ++ [s.status.toNat] } ∧
    hostStep (.read (.reg 2)) s = .next { s with readLog := s.readLog ++ [s.len.toNat] } ∧
    hostStep (.read (.reg 5)) s = .next { s with readLog := s.readLog ++ [s.baud] } ∧
    (∀ n : BitVec 4, 6 ≤ n.toNat → hostStep (.read (.reg n)) s = .next { s with readLog := s.readLog ++ [0] }) ∧
    (s.phase = .idle →
      hostStep (.read (.reg 3)) s = .next { s with readLog := s.readLog ++ [s.fill.toNat] } ∧
      hostStep (.read (.reg 4)) s = .next { s with readLog := s.readLog ++ [s.rcount.toNat] })

/-- R28: the bits of STATUS. -/
def Obligations.StatusBits : Prop :=
  ∀ s : State, (s.status.getLsbD 0 = true ↔ s.phase ≠ .idle) ∧ s.status.getLsbD 1 = s.opened ∧
    s.status.getLsbD 2 = s.compact ∧ ∀ i, 3 ≤ i → s.status.getLsbD i = false

/-- R26, R46: host reads of buffer cells; index 255 reads 0; a cell nothing has written faults (log 7), of RBUF while
the engine is idle (log 23). -/
def Obligations.BufferReads : Prop :=
  ∀ (s : State) (i : Byte),
    (i = 255 → hostStep (.read (.pbuf i)) s = .next { s with readLog := s.readLog ++ [0] } ∧
      hostStep (.read (.rbuf i)) s = .next { s with readLog := s.readLog ++ [0] }) ∧
    (i ≠ 255 →
      (∀ b, s.pbuf.read i.toNat = some b →
        hostStep (.read (.pbuf i)) s = .next { s with readLog := s.readLog ++ [b.toNat] }) ∧
      (s.pbuf.read i.toNat = none → hostStep (.read (.pbuf i)) s = .fault .unwrittenCell) ∧
      (s.phase = .idle →
        (∀ b, s.rbuf.read i.toNat = some b →
          hostStep (.read (.rbuf i)) s = .next { s with readLog := s.readLog ++ [b.toNat] }) ∧
        (s.rbuf.read i.toNat = none → hostStep (.read (.rbuf i)) s = .fault .unwrittenCell)))

/-- R31, R32, U6: while BUSY = 1 a read of a result returns a value nothing constrains (log 8), and the run goes on. That
it does so also for a result nothing has written since reset, where R46 and U7 have a model fault, is the model's choice
(log 23). -/
def Obligations.BusyResultReadsAreFree : Prop :=
  ∀ (s : State) (c : Target), s.phase ≠ .idle → c = .reg 3 ∨ c = .reg 4 ∨ (∃ i : Byte, i ≠ 255 ∧ c = .rbuf i) →
    hostStep (.read c) s = .next
      { s with readLog := s.readLog ++ [(Config.freeByte s.draws).toNat], draws := s.draws + 1 }

/-- R29, R30, R33: host writes of LEN, BAUD and PBUF while the engine is idle, and the cells they leave alone. -/
def Obligations.IdleHostWritesStore : Prop :=
  ∀ (s : State) (v : Nat), s.phase = .idle →
    (v < 256 → hostStep (.write (.reg 2) v) s = .next { s with len := BitVec.ofNat 8 v }) ∧
    (v < 2 ^ s.cfg.baudW → hostStep (.write (.reg 5) v) s = .next { s with baud := v }) ∧
    (∀ i : Byte, i ≠ 255 → v < 256 →
      ∃ m : Memory, hostStep (.write (.pbuf i) v) s = .next { s with pbuf := m } ∧
        m.read i.toNat = some (BitVec.ofNat 8 v) ∧ ∀ a, a ≠ i.toNat → m.read a = s.pbuf.read a)

/-- R26, R197: the ignored host writes: LEN, BAUD and PBUF while BUSY = 1, and at any time the read-only and reserved
registers, RBUF and index 255 (ignored, not refused: log 5); each for every value its cell has room for. A wider value
is refused by name (log 15). -/
def Obligations.IgnoredHostWrites : Prop :=
  ∀ (s : State) (v : Nat),
    (s.phase ≠ .idle →
      (v < 256 → hostStep (.write (.reg 2) v) s = .next s) ∧
      (v < 2 ^ s.cfg.baudW → hostStep (.write (.reg 5) v) s = .next s) ∧
      (v < 256 → ∀ i : Byte, hostStep (.write (.pbuf i) v) s = .next s)) ∧
    (v < 256 →
      (∀ n : BitVec 4, n = 1 ∨ n = 3 ∨ n = 4 ∨ 6 ≤ n.toNat → hostStep (.write (.reg n) v) s = .next s) ∧
      (∀ i : Byte, hostStep (.write (.rbuf i) v) s = .next s) ∧
      hostStep (.write (.pbuf 255) v) s = .next s) ∧
    (∀ c : Target, 2 ^ c.width s.cfg ≤ v → hostStep (.write c v) s = .refused .dataTooWide)

/-! The device and reset -/

/-- R41, R127, U3: what a byte from the device does before OPEN, with room in RXQ, and at a full RXQ (log 12); it stops
the timer (R204; log 11). -/
def Obligations.DeviceAppends : Prop :=
  ∀ (s : State) (v : Byte) (rest : List Input), s.inputs = .device v :: rest →
    (s.opened = false → step s = .next { s with inputs := rest }) ∧
    (s.opened = true → (∀ d, s.cfg.rxDepth = some d → s.rxq.length < d) →
      step s = .next { s with inputs := rest, rxq := s.rxq ++ [v], timer := .stopped }) ∧
    (s.opened = true → ∀ d, s.cfg.rxDepth = some d → d ≤ s.rxq.length → step s = .fault .rxOverflow)

/-- R220: the reset state the spec gives, for every value of the parameters, and that the engine then does nothing by
itself. The values log 6 chooses (LEN, FILL, RCOUNT, BAUD, OP, IDX, CSUM) are not stated. -/
def Obligations.ResetState : Prop :=
  State.reset = State.resetOf Config.default ∧
  ∀ c : Config,
    (State.resetOf c).phase = .idle ∧ (State.resetOf c).opened = false ∧ (State.resetOf c).rxq = [] ∧
    (State.resetOf c).txlog = [] ∧ (State.resetOf c).txbuf = [] ∧ (State.resetOf c).compact = c.compactStrap ∧
    (State.resetOf c).timer = .stopped ∧
    (∀ a, (State.resetOf c).pbuf.read a = none ∧ (State.resetOf c).rbuf.read a = none) ∧
    step (State.resetOf c) = .next (State.resetOf c)

/-- R221, R241: the reset input, from every state, in the middle of whatever runs. What the outside does and what reads
returned are the model's own and stay (log 16). The next state is the model's reset state: its values of LEN, FILL, RCOUNT,
BAUD, OP, IDX and CSUM, which R45 leaves unspecified, are the model's choice (log 6), and so is the acceptance line at 1
(log 14). -/
def Obligations.ResetAbandonsTheOperation : Prop :=
  ∀ (s : State) (rest : List Input), s.inputs = .reset :: rest →
    step s = .next { State.resetOf s.cfg with inputs := rest, readLog := s.readLog, draws := s.draws }

/-! Invariants -/

/-- The invariant holds right after reset, for every value of the parameters. -/
def Obligations.ResetMeetsTheInvariant : Prop := ∀ c : Config, (State.resetOf c).Inv ∧ (State.resetOf c).EmissionInv

/-- Every step keeps the invariant: canonical buffers, the channel's history, RXQ's bound, the agreement of PHASE, OP
and IDX, and the timer's use. That ACK, NAK and TIMEOUT stop the timer, on which `timer_used` rests, is DEDUCED (log 11);
the transmit buffer's clause is about the model's form of it (log 14). -/
def Obligations.EveryStepKeepsTheInvariant : Prop :=
  ∀ s t : State, s.Inv → step s = .next t → t.Inv

/-- R39, R157, R200: every step keeps the attempt's bytes the newest of TXLOG, with CSUM their sum. -/
def Obligations.EveryStepKeepsTheAttempt : Prop :=
  ∀ s t : State, s.EmissionInv → step s = .next t → t.EmissionInv

/-- R125: no step of any agent reads an empty queue. -/
def Obligations.NoStepReadsAnEmptyQueue : Prop := ∀ s : State, step s ≠ .fault .readEmpty

/-- R38, R206 e: from every state of the invariant the only faults are a read of a cell nothing has written and a byte
arriving at a full queue (logs 7, 12, 19). -/
def Obligations.OnlyTheNamedFaults : Prop :=
  ∀ (s : State) (f : Fault), s.Inv → step s = .fault f → f = .unwrittenCell ∨ f = .rxOverflow

/-! Whole-machine rules -/

/-- R22, R23, R34, R37: the parameters never change, not even by reset; but for reset, COMPACT never changes, OPENED and
the line's baud value only when the host writes OPEN to CMD of an idle, closed engine (R121), and OP only when it writes
the command byte whose opcode OP then holds to CMD of an idle, open engine (R141, R171). That a step is the host's when
its input comes first is log 1's. -/
def Obligations.ConfigurationIsConstant : Prop :=
  ∀ s t : State, step s = .next t →
    t.cfg = s.cfg ∧
    (s.noReset → t.compact = s.compact ∧
      (s.opened = true → t.opened = true ∧ t.lineBaud = s.lineBaud) ∧
      (s.phase ≠ .idle → t.op = s.op) ∧
      (t.opened ≠ s.opened ∨ t.lineBaud ≠ s.lineBaud →
        s.phase = .idle ∧ s.opened = false ∧ s.inputs.head? = some (.host (.write (.reg 0) 6)) ∧
        t.opened = true ∧ t.lineBaud = some s.baud) ∧
      (t.op ≠ s.op →
        s.phase = .idle ∧ s.opened = true ∧ t.phase = .txHdr ∧
        ∃ v : Nat, s.inputs.head? = some (.host (.write (.reg 0) v)) ∧
          (v, t.op) ∈ [(0, Op.send), (1, .sendb), (2, .sendna), (3, .sendbna), (4, .qfill), (5, .rdbuf)]))

/-- R70, R72, R197: while BUSY = 1 no step but reset changes LEN, BAUD or any cell of PBUF. -/
def Obligations.PayloadIsFixedWhileBusy : Prop :=
  ∀ s t : State, s.phase ≠ .idle → s.noReset → step s = .next t →
    t.len = s.len ∧ t.baud = s.baud ∧ ∀ a, t.pbuf.read a = s.pbuf.read a

/-- R31, R32, R175: which steps write FILL, RCOUNT and RBUF, and with which byte. -/
def Obligations.ResultsAreWrittenByTheirStepsAlone : Prop :=
  ∀ s t : State, s.noReset → step s = .next t →
    (t.fill ≠ s.fill → s.phase = .rxFill ∧ s.rxq.head? = some t.fill) ∧
    (t.rcount ≠ s.rcount → s.phase = .rxLen ∧ s.rxq.head? = some t.rcount) ∧
    (∀ a, t.rbuf.read a ≠ s.rbuf.read a →
      s.phase = .rxData ∧ a = s.idx.toNat ∧ t.rbuf.read a = s.rxq.head?)

/-- R40, R68, R123: TXLOG only grows, by one byte at most, in an emission phase and when the transport accepts. -/
def Obligations.TxlogOnlyGrows : Prop :=
  ∀ s t : State, s.noReset → step s = .next t →
    t.txlog = s.txlog ∨ ∃ b, t.txlog = s.txlog ++ [b] ∧ s.txReady = true ∧ s.phase.emits = true

/-- R41, R125, R127, R158: RXQ is first-in first-out: a step leaves it, removes its oldest byte outside emission, or
appends a byte the device sends on an open channel. -/
def Obligations.RxqIsFirstInFirstOut : Prop :=
  ∀ s t : State, s.noReset → step s = .next t →
    t.rxq = s.rxq ∨
    (∃ b, s.rxq = b :: t.rxq ∧ s.phase ≠ .idle ∧ s.phase.emits = false) ∨
    (∃ v, t.rxq = s.rxq ++ [v] ∧ s.opened = true ∧ s.inputs.head? = some (.device v))

/-- R36, R160, R183: PHASE moves only along the edges of the transition tables; and an operation starts only by a host
write of one of the opcodes 0 to 5 to CMD, the channel open (R27, R141, R171; whose step it is: log 1). -/
def Obligations.PhaseMovesAlongTheTables : Prop :=
  ∀ s t : State, s.noReset → step s = .next t →
    t.phase ∈ s.phase.edges ∧
    (s.phase = .idle → t.phase = .txHdr →
      s.opened = true ∧ ∃ v : Nat, v ≤ 5 ∧ s.inputs.head? = some (.host (.write (.reg 0) v)))

/-- R191: how an operation can end: with the checksum byte of an unacknowledged frame sent, with the positive
acknowledgment consumed, or with the last reply byte consumed. -/
def Obligations.CompletionIsSuccess : Prop :=
  ∀ s t : State, s.Inv → s.noReset → step s = .next t → s.phase ≠ .idle → t.phase = .idle →
    (s.phase = .txSum ∧ (s.op = .sendna ∨ s.op = .sendbna) ∧ t.txlog = s.txlog ++ [s.csum]) ∨
    (s.phase = .ackWait ∧ (s.op = .send ∨ s.op = .sendb) ∧ s.rxq = s.cfg.ackCode :: t.rxq) ∨
    (s.phase = .rxPost ∧ s.op = .qfill ∧ s.idx = 1 ∧ ∃ b, s.rxq = b :: t.rxq) ∨
    (s.phase = .rxTrail ∧ s.op = .rdbuf ∧ ∃ b, s.rxq = b :: t.rxq)

/-! Runs -/

/-- R94, R95, R142 to R146, R157: an attempt in which the transport accepts every byte appends exactly the frame of
P(OP) to TXLOG, and ends in ACK_WAIT or, unacknowledged, idle. Turns, timer and transmit buffer are the model's (logs 1,
11, 14); an empty payload where nothing has written LEN since reset is log 6's. -/
def Obligations.AnAttemptSendsTheFrame : Prop :=
  ∀ (s : State) (p : List Byte) (rest : List Input), s.phase = .txHdr → s.txReady = true → s.PayloadIs p →
    s.inputs = List.replicate (frameOf s.mode p).length .engine ++ rest →
    Sys2Proof.core.run (frameOf s.mode p).length s = .next
      { s with
        txlog := s.txlog ++ frameOf s.mode p, txbuf := s.txbuf ++ frameOf s.mode p
        csum := checksum (frameOf s.mode p).dropLast, idx := BitVec.ofNat 8 p.length, inputs := rest
        phase := if s.op.acked = true then .ackWait else .idle
        timer := if s.op.acked = true then (if s.cfg.boundedWait = true then .running else .stopped) else s.timer }

/-- R151, E3: a device that answers N frames with negative bytes and the next with `ACK_CODE` makes the engine send
exactly N + 1 identical frames; every answer is consumed and the operation goes on, or is complete. -/
def Obligations.RetryLaw : Prop :=
  ∀ (s : State) (p naks : List Byte) (rest : List Input),
    s.phase = .txHdr → s.txReady = true → s.opened = true → s.op.acked = true → s.PayloadIs p → s.rxq = [] →
    (∀ d, s.cfg.rxDepth = some d → 0 < d) → (∀ b ∈ naks, b ≠ s.cfg.ackCode) →
    s.inputs = (naks ++ [s.cfg.ackCode]).flatMap (attempt (frameOf s.mode p).length) ++ rest →
    ∃ t, Sys2Proof.core.run ((naks.length + 1) * ((frameOf s.mode p).length + 2)) s = .next t ∧
      t.txlog = s.txlog ++ (List.replicate (naks.length + 1) (frameOf s.mode p)).flatten ∧
      t.rxq = [] ∧ t.inputs = rest ∧ t.op = s.op ∧ t.len = s.len ∧ t.pbuf = s.pbuf ∧
      (s.op = .send ∨ s.op = .sendb → t.phase = .idle) ∧
      (s.op = .qfill → t.phase = .rxPre ∧ t.idx = 0) ∧ (s.op = .rdbuf → t.phase = .rxLen)

/-- R172, R173: the five reply bytes of QFILL. -/
def Obligations.FillReplyIsParsedByPosition : Prop :=
  ∀ (s : State) (r0 r1 level r3 r4 : Byte) (more : List Byte) (rest : List Input),
    s.phase = .rxPre → s.idx = 0 → s.rxq = encode (.fillReply r0 r1 level r3 r4) ++ more →
    s.inputs = List.replicate 5 .engine ++ rest →
    Sys2Proof.core.run 5 s = .next { s with rxq := more, fill := level, idx := 2, phase := .idle, inputs := rest }

/-- R177, R184: the n + 2 reply bytes of RDBUF, for every n from 0 to 255. -/
def Obligations.BufferReplyIsParsedByPosition : Prop :=
  ∀ (s : State) (d : List Byte) (trailing : Byte) (more : List Byte) (rest : List Input),
    s.phase = .rxLen → d.length ≤ 255 → s.rxq = encode (.bufferReply d trailing) ++ more →
    s.inputs = List.replicate (d.length + 2) .engine ++ rest →
    ∃ t, Sys2Proof.core.run (d.length + 2) s = .next t ∧
      t = { s with
            rxq := more, rcount := BitVec.ofNat 8 d.length, idx := BitVec.ofNat 8 d.length, rbuf := t.rbuf
            phase := .idle, inputs := rest } ∧
      (∀ (i : Nat) (h : i < d.length), t.rbuf.read i = some d[i]) ∧
      ∀ i, d.length ≤ i → t.rbuf.read i = s.rbuf.read i

/-- R151, R194, E7: if no byte that has come or will come is `ACK_CODE` and no reset comes, an acknowledged operation is
never over, however long the run. -/
def Obligations.WithoutAckTheOperationNeverEnds : Prop :=
  ∀ (s t : State) (k : Nat), s.Unacknowledged → s.NoAckComes → Sys2Proof.core.run k s = .next t →
    t.Unacknowledged ∧ t.op = s.op ∧ t.status.getLsbD 0 = true
end

