-- ==== Sys2Proof/Laws/Decode.lean ====
section
/-! SUPPORT. The pieces of the decoders and encoders. -/

namespace Sys2Proof

@[simp] theorem splitLast_append (l : List Byte) (b : Byte) : splitLast (l ++ [b]) = some (l, b) := by
  induction l with
  | nil => rfl
  | cons a l ih => simp [splitLast, ih]

theorem eq_append_of_splitLast {l p : List Byte} {c : Byte} (h : splitLast l = some (p, c)) : l = p ++ [c] := by
  induction l generalizing p c with
  | nil => simp [splitLast] at h
  | cons a l ih =>
    simp only [splitLast] at h
    split at h
    · rename_i hn
      cases l with
      | nil => simp at h; simp [← h.1, h.2]
      | cons b l => simp only [splitLast] at hn; split at hn <;> simp at hn
    · rename_i f la hs
      simp at h
      rw [ih hs]; simp [← h.1, h.2]

/-- A body that passes its check is the payload and then the sum of all the bytes before it. -/
theorem eq_append_of_checkedBody {front l p : List Byte} (h : checkedBody front l = .ok p) :
    l = p ++ [checksum (front ++ p)] := by
  unfold checkedBody at h
  split at h
  · simp at h
  · rename_i q c hs
    split_ifs at h with hc
    simp at h; subst h; rw [eq_append_of_splitLast hs, hc]

theorem countByte_toNat {n : Nat} (h : n ≤ 255) : (countByte n).toNat = n := by
  simp [countByte]; omega

@[simp] theorem checksum_append (a b : List Byte) : checksum (a ++ b) = checksum a + checksum b := by
  induction a with
  | nil => simp [checksum]
  | cons x a ih => simp [checksum, ih, BitVec.add_assoc]

theorem checksum_singleton (b : Byte) : checksum [b] = b := by simp [checksum]

end Sys2Proof
end

