-- ==== Sys2Proof/Laws/Memory.lean ====
section
/-! SUPPORT. The laws of the byte buffers: read after write, and the canonical form. -/

namespace Sys2Proof.Machine

@[simp] theorem Memory.read_nil (a : Nat) : Memory.read [] a = none := rfl

@[simp] theorem Memory.read_cons (k a : Nat) (v : Byte) (m : Memory) :
    Memory.read ((k, v) :: m) a = if k = a then some v else Memory.read m a := rfl

@[simp] theorem Memory.read_write_same (m : Memory) (a : Nat) (v : Byte) : (Memory.write m a v).read a = some v := by
  induction m with
  | nil => simp [Memory.write]
  | cons c rest ih =>
    obtain ⟨k, w⟩ := c
    unfold Memory.write
    split_ifs with h1 h2
    · simp
    · simp
    · simp [Ne.symm h2, ih]

theorem Memory.read_write_other (m : Memory) {a b : Nat} (v : Byte) (h : b ≠ a) :
    (Memory.write m a v).read b = m.read b := by
  induction m with
  | nil => simp [Memory.write, Ne.symm h]
  | cons c rest ih =>
    obtain ⟨k, w⟩ := c
    unfold Memory.write
    split_ifs with h1 h2
    · simp [Ne.symm h]
    · subst h2
      simp [Ne.symm h]
    · simp [ih]

/-- A canonical list's head lies below every later index. -/
theorem Memory.wf_cons_iff (a : Nat) (v : Byte) (m : Memory) :
    Memory.wf ((a, v) :: m) = true ↔ (∀ c, m.head? = some c → a < c.1) ∧ Memory.wf m = true := by
  cases m with
  | nil => simp [Memory.wf]
  | cons c rest =>
    obtain ⟨b, w⟩ := c
    simp [Memory.wf]

theorem Memory.head_write (m : Memory) (a : Nat) (v : Byte) (c : Host.Cell) (h : (m.write a v).head? = some c) :
    c.1 = a ∨ m.head? = some c := by
  cases m with
  | nil => left; simp [Memory.write] at h; simp [← h]
  | cons d rest =>
    obtain ⟨k, w⟩ := d
    unfold Memory.write at h
    split_ifs at h with h1 h2
    · left; simp at h; simp [← h]
    · left; simp at h; simp [← h]
    · right; simpa using h

theorem Memory.wf_write (m : Memory) (a : Nat) (v : Byte) (h : m.wf = true) : (Memory.write m a v).wf = true := by
  induction m with
  | nil => rfl
  | cons c rest ih =>
    obtain ⟨k, w⟩ := c
    have hk := (Memory.wf_cons_iff k w rest).1 h
    unfold Memory.write
    split_ifs with h1 h2
    · refine (Memory.wf_cons_iff _ _ _).2 ⟨?_, h⟩
      intro c hc
      simp at hc
      simpa [← hc] using h1
    · subst h2
      exact (Memory.wf_cons_iff _ _ _).2 hk
    · refine (Memory.wf_cons_iff _ _ _).2 ⟨?_, ih hk.2⟩
      intro c hc
      rcases Memory.head_write rest a v c hc with hca | hc'
      · omega
      · exact hk.1 c hc'

theorem Memory.inRange_write (m : Memory) (a : Nat) (v : Byte) (h : m.inRange = true) (ha : a < bufCells) :
    (Memory.write m a v).inRange = true := by
  induction m with
  | nil => simp [Memory.write, Memory.inRange, ha]
  | cons c rest ih =>
    obtain ⟨k, w⟩ := c
    simp only [Memory.inRange, List.all_cons, Bool.and_eq_true, decide_eq_true_eq] at h ih
    unfold Memory.write
    split_ifs
    · simp [Memory.inRange, ha, h]
    · simp [Memory.inRange, ha, h]
    · simpa [Memory.inRange, h.1] using ih h.2

theorem Memory.wf_nil : Memory.wf [] = true := rfl

theorem Memory.inRange_nil : Memory.inRange [] = true := rfl

theorem Memory.cell_of_read {m : Memory} {i : Nat} {b : Byte} (hi : i < bufCells) (h : m.read i = some b) :
    m.cell i = .ok b := by
  simp [Memory.cell, hi, h]

theorem Memory.cell_unwritten {m : Memory} {i : Nat} (hi : i < bufCells) (h : m.read i = none) :
    m.cell i = .error .unwrittenCell := by
  simp [Memory.cell, hi, h]

theorem Memory.cell_error {m : Memory} {i : Nat} {f : Fault} (hi : i < bufCells) (h : m.cell i = .error f) :
    f = .unwrittenCell := by
  unfold Memory.cell at h
  rw [if_pos hi] at h
  split at h <;> simp_all

end Sys2Proof.Machine
end

