-- ==== Sys2Proof/Laws/State.lean ====
section
/-! SUPPORT. One lemma per field per named update of State. -/

namespace Sys2Proof.Machine

@[simp] theorem State.tx_cfg (b : Byte) (s : State) : (s.tx b).cfg = s.cfg := rfl
@[simp] theorem State.tx_compact (b : Byte) (s : State) : (s.tx b).compact = s.compact := rfl
@[simp] theorem State.tx_opened (b : Byte) (s : State) : (s.tx b).opened = s.opened := rfl
@[simp] theorem State.tx_lineBaud (b : Byte) (s : State) : (s.tx b).lineBaud = s.lineBaud := rfl
@[simp] theorem State.tx_phase (b : Byte) (s : State) : (s.tx b).phase = s.phase := rfl
@[simp] theorem State.tx_op (b : Byte) (s : State) : (s.tx b).op = s.op := rfl
@[simp] theorem State.tx_idx (b : Byte) (s : State) : (s.tx b).idx = s.idx := rfl
@[simp] theorem State.tx_csum (b : Byte) (s : State) : (s.tx b).csum = s.csum := rfl
@[simp] theorem State.tx_len (b : Byte) (s : State) : (s.tx b).len = s.len := rfl
@[simp] theorem State.tx_fill (b : Byte) (s : State) : (s.tx b).fill = s.fill := rfl
@[simp] theorem State.tx_rcount (b : Byte) (s : State) : (s.tx b).rcount = s.rcount := rfl
@[simp] theorem State.tx_baud (b : Byte) (s : State) : (s.tx b).baud = s.baud := rfl
@[simp] theorem State.tx_pbuf (b : Byte) (s : State) : (s.tx b).pbuf = s.pbuf := rfl
@[simp] theorem State.tx_rbuf (b : Byte) (s : State) : (s.tx b).rbuf = s.rbuf := rfl
@[simp] theorem State.tx_txlog (b : Byte) (s : State) : (s.tx b).txlog = s.txlog ++ [b] := rfl
@[simp] theorem State.tx_txbuf (b : Byte) (s : State) : (s.tx b).txbuf = s.txbuf ++ [b] := rfl
@[simp] theorem State.tx_txReady (b : Byte) (s : State) : (s.tx b).txReady = s.txReady := rfl
@[simp] theorem State.tx_rxq (b : Byte) (s : State) : (s.tx b).rxq = s.rxq := rfl
@[simp] theorem State.tx_timer (b : Byte) (s : State) : (s.tx b).timer = s.timer := rfl
@[simp] theorem State.tx_inputs (b : Byte) (s : State) : (s.tx b).inputs = s.inputs := rfl
@[simp] theorem State.tx_readLog (b : Byte) (s : State) : (s.tx b).readLog = s.readLog := rfl
@[simp] theorem State.tx_draws (b : Byte) (s : State) : (s.tx b).draws = s.draws := rfl

@[simp] theorem State.issue_cfg (o : Op) (s : State) : (s.issue o).cfg = s.cfg := rfl
@[simp] theorem State.issue_compact (o : Op) (s : State) : (s.issue o).compact = s.compact := rfl
@[simp] theorem State.issue_opened (o : Op) (s : State) : (s.issue o).opened = s.opened := rfl
@[simp] theorem State.issue_lineBaud (o : Op) (s : State) : (s.issue o).lineBaud = s.lineBaud := rfl
@[simp] theorem State.issue_phase (o : Op) (s : State) : (s.issue o).phase = .txHdr := rfl
@[simp] theorem State.issue_op (o : Op) (s : State) : (s.issue o).op = o := rfl
@[simp] theorem State.issue_idx (o : Op) (s : State) : (s.issue o).idx = s.idx := rfl
@[simp] theorem State.issue_csum (o : Op) (s : State) : (s.issue o).csum = s.csum := rfl
@[simp] theorem State.issue_len (o : Op) (s : State) : (s.issue o).len = s.len := rfl
@[simp] theorem State.issue_fill (o : Op) (s : State) : (s.issue o).fill = s.fill := rfl
@[simp] theorem State.issue_rcount (o : Op) (s : State) : (s.issue o).rcount = s.rcount := rfl
@[simp] theorem State.issue_baud (o : Op) (s : State) : (s.issue o).baud = s.baud := rfl
@[simp] theorem State.issue_pbuf (o : Op) (s : State) : (s.issue o).pbuf = s.pbuf := rfl
@[simp] theorem State.issue_rbuf (o : Op) (s : State) : (s.issue o).rbuf = s.rbuf := rfl
@[simp] theorem State.issue_txlog (o : Op) (s : State) : (s.issue o).txlog = s.txlog := rfl
@[simp] theorem State.issue_txbuf (o : Op) (s : State) : (s.issue o).txbuf = s.txbuf := rfl
@[simp] theorem State.issue_txReady (o : Op) (s : State) : (s.issue o).txReady = s.txReady := rfl
@[simp] theorem State.issue_rxq (o : Op) (s : State) : (s.issue o).rxq = s.rxq := rfl
@[simp] theorem State.issue_timer (o : Op) (s : State) : (s.issue o).timer = s.timer := rfl
@[simp] theorem State.issue_inputs (o : Op) (s : State) : (s.issue o).inputs = s.inputs := rfl
@[simp] theorem State.issue_readLog (o : Op) (s : State) : (s.issue o).readLog = s.readLog := rfl
@[simp] theorem State.issue_draws (o : Op) (s : State) : (s.issue o).draws = s.draws := rfl

@[simp] theorem State.enterAckWait_cfg (s : State) : (s.enterAckWait).cfg = s.cfg := rfl
@[simp] theorem State.enterAckWait_compact (s : State) : (s.enterAckWait).compact = s.compact := rfl
@[simp] theorem State.enterAckWait_opened (s : State) : (s.enterAckWait).opened = s.opened := rfl
@[simp] theorem State.enterAckWait_lineBaud (s : State) : (s.enterAckWait).lineBaud = s.lineBaud := rfl
@[simp] theorem State.enterAckWait_phase (s : State) : (s.enterAckWait).phase = .ackWait := rfl
@[simp] theorem State.enterAckWait_op (s : State) : (s.enterAckWait).op = s.op := rfl
@[simp] theorem State.enterAckWait_idx (s : State) : (s.enterAckWait).idx = s.idx := rfl
@[simp] theorem State.enterAckWait_csum (s : State) : (s.enterAckWait).csum = s.csum := rfl
@[simp] theorem State.enterAckWait_len (s : State) : (s.enterAckWait).len = s.len := rfl
@[simp] theorem State.enterAckWait_fill (s : State) : (s.enterAckWait).fill = s.fill := rfl
@[simp] theorem State.enterAckWait_rcount (s : State) : (s.enterAckWait).rcount = s.rcount := rfl
@[simp] theorem State.enterAckWait_baud (s : State) : (s.enterAckWait).baud = s.baud := rfl
@[simp] theorem State.enterAckWait_pbuf (s : State) : (s.enterAckWait).pbuf = s.pbuf := rfl
@[simp] theorem State.enterAckWait_rbuf (s : State) : (s.enterAckWait).rbuf = s.rbuf := rfl
@[simp] theorem State.enterAckWait_txlog (s : State) : (s.enterAckWait).txlog = s.txlog := rfl
@[simp] theorem State.enterAckWait_txbuf (s : State) : (s.enterAckWait).txbuf = s.txbuf := rfl
@[simp] theorem State.enterAckWait_txReady (s : State) : (s.enterAckWait).txReady = s.txReady := rfl
@[simp] theorem State.enterAckWait_rxq (s : State) : (s.enterAckWait).rxq = s.rxq := rfl
@[simp] theorem State.enterAckWait_timer (s : State) : (s.enterAckWait).timer = if s.cfg.boundedWait then .running else .stopped := rfl
@[simp] theorem State.enterAckWait_inputs (s : State) : (s.enterAckWait).inputs = s.inputs := rfl
@[simp] theorem State.enterAckWait_readLog (s : State) : (s.enterAckWait).readLog = s.readLog := rfl
@[simp] theorem State.enterAckWait_draws (s : State) : (s.enterAckWait).draws = s.draws := rfl

@[simp] theorem State.restartFrame_cfg (s : State) : (s.restartFrame).cfg = s.cfg := rfl
@[simp] theorem State.restartFrame_compact (s : State) : (s.restartFrame).compact = s.compact := rfl
@[simp] theorem State.restartFrame_opened (s : State) : (s.restartFrame).opened = s.opened := rfl
@[simp] theorem State.restartFrame_lineBaud (s : State) : (s.restartFrame).lineBaud = s.lineBaud := rfl
@[simp] theorem State.restartFrame_phase (s : State) : (s.restartFrame).phase = .txHdr := rfl
@[simp] theorem State.restartFrame_op (s : State) : (s.restartFrame).op = s.op := rfl
@[simp] theorem State.restartFrame_idx (s : State) : (s.restartFrame).idx = s.idx := rfl
@[simp] theorem State.restartFrame_csum (s : State) : (s.restartFrame).csum = s.csum := rfl
@[simp] theorem State.restartFrame_len (s : State) : (s.restartFrame).len = s.len := rfl
@[simp] theorem State.restartFrame_fill (s : State) : (s.restartFrame).fill = s.fill := rfl
@[simp] theorem State.restartFrame_rcount (s : State) : (s.restartFrame).rcount = s.rcount := rfl
@[simp] theorem State.restartFrame_baud (s : State) : (s.restartFrame).baud = s.baud := rfl
@[simp] theorem State.restartFrame_pbuf (s : State) : (s.restartFrame).pbuf = s.pbuf := rfl
@[simp] theorem State.restartFrame_rbuf (s : State) : (s.restartFrame).rbuf = s.rbuf := rfl
@[simp] theorem State.restartFrame_txlog (s : State) : (s.restartFrame).txlog = s.txlog := rfl
@[simp] theorem State.restartFrame_txbuf (s : State) : (s.restartFrame).txbuf = s.txbuf := rfl
@[simp] theorem State.restartFrame_txReady (s : State) : (s.restartFrame).txReady = s.txReady := rfl
@[simp] theorem State.restartFrame_rxq (s : State) : (s.restartFrame).rxq = s.rxq := rfl
@[simp] theorem State.restartFrame_timer (s : State) : (s.restartFrame).timer = .stopped := rfl
@[simp] theorem State.restartFrame_inputs (s : State) : (s.restartFrame).inputs = s.inputs := rfl
@[simp] theorem State.restartFrame_readLog (s : State) : (s.restartFrame).readLog = s.readLog := rfl
@[simp] theorem State.restartFrame_draws (s : State) : (s.restartFrame).draws = s.draws := rfl

@[simp] theorem State.drain_cfg (s : State) : (s.drain).cfg = s.cfg := rfl
@[simp] theorem State.drain_compact (s : State) : (s.drain).compact = s.compact := rfl
@[simp] theorem State.drain_opened (s : State) : (s.drain).opened = s.opened := rfl
@[simp] theorem State.drain_lineBaud (s : State) : (s.drain).lineBaud = s.lineBaud := rfl
@[simp] theorem State.drain_phase (s : State) : (s.drain).phase = s.phase := rfl
@[simp] theorem State.drain_op (s : State) : (s.drain).op = s.op := rfl
@[simp] theorem State.drain_idx (s : State) : (s.drain).idx = s.idx := rfl
@[simp] theorem State.drain_csum (s : State) : (s.drain).csum = s.csum := rfl
@[simp] theorem State.drain_len (s : State) : (s.drain).len = s.len := rfl
@[simp] theorem State.drain_fill (s : State) : (s.drain).fill = s.fill := rfl
@[simp] theorem State.drain_rcount (s : State) : (s.drain).rcount = s.rcount := rfl
@[simp] theorem State.drain_baud (s : State) : (s.drain).baud = s.baud := rfl
@[simp] theorem State.drain_pbuf (s : State) : (s.drain).pbuf = s.pbuf := rfl
@[simp] theorem State.drain_rbuf (s : State) : (s.drain).rbuf = s.rbuf := rfl
@[simp] theorem State.drain_txlog (s : State) : (s.drain).txlog = s.txlog := rfl
@[simp] theorem State.drain_txbuf (s : State) : (s.drain).txbuf = s.txbuf.tail := rfl
@[simp] theorem State.drain_txReady (s : State) : (s.drain).txReady = s.txReady := rfl
@[simp] theorem State.drain_rxq (s : State) : (s.drain).rxq = s.rxq := rfl
@[simp] theorem State.drain_timer (s : State) : (s.drain).timer = s.timer := rfl
@[simp] theorem State.drain_inputs (s : State) : (s.drain).inputs = s.inputs := rfl
@[simp] theorem State.drain_readLog (s : State) : (s.drain).readLog = s.readLog := rfl
@[simp] theorem State.drain_draws (s : State) : (s.drain).draws = s.draws := rfl

@[simp] theorem State.resetNow_cfg (s : State) : (s.resetNow).cfg = s.cfg := rfl
@[simp] theorem State.resetNow_compact (s : State) : (s.resetNow).compact = s.cfg.compactStrap := rfl
@[simp] theorem State.resetNow_opened (s : State) : (s.resetNow).opened = false := rfl
@[simp] theorem State.resetNow_lineBaud (s : State) : (s.resetNow).lineBaud = none := rfl
@[simp] theorem State.resetNow_phase (s : State) : (s.resetNow).phase = .idle := rfl
@[simp] theorem State.resetNow_op (s : State) : (s.resetNow).op = .send := rfl
@[simp] theorem State.resetNow_idx (s : State) : (s.resetNow).idx = 0 := rfl
@[simp] theorem State.resetNow_csum (s : State) : (s.resetNow).csum = 0 := rfl
@[simp] theorem State.resetNow_len (s : State) : (s.resetNow).len = 0 := rfl
@[simp] theorem State.resetNow_fill (s : State) : (s.resetNow).fill = 0 := rfl
@[simp] theorem State.resetNow_rcount (s : State) : (s.resetNow).rcount = 0 := rfl
@[simp] theorem State.resetNow_baud (s : State) : (s.resetNow).baud = 0 := rfl
@[simp] theorem State.resetNow_pbuf (s : State) : (s.resetNow).pbuf = [] := rfl
@[simp] theorem State.resetNow_rbuf (s : State) : (s.resetNow).rbuf = [] := rfl
@[simp] theorem State.resetNow_txlog (s : State) : (s.resetNow).txlog = [] := rfl
@[simp] theorem State.resetNow_txbuf (s : State) : (s.resetNow).txbuf = [] := rfl
@[simp] theorem State.resetNow_txReady (s : State) : (s.resetNow).txReady = true := rfl
@[simp] theorem State.resetNow_rxq (s : State) : (s.resetNow).rxq = [] := rfl
@[simp] theorem State.resetNow_timer (s : State) : (s.resetNow).timer = .stopped := rfl
@[simp] theorem State.resetNow_inputs (s : State) : (s.resetNow).inputs = s.inputs := rfl
@[simp] theorem State.resetNow_readLog (s : State) : (s.resetNow).readLog = s.readLog := rfl
@[simp] theorem State.resetNow_draws (s : State) : (s.resetNow).draws = s.draws := rfl

@[simp] theorem State.acknowledged_cfg (s : State) : (s.acknowledged).cfg = s.cfg := by
  unfold State.acknowledged; split <;> rfl
@[simp] theorem State.acknowledged_compact (s : State) : (s.acknowledged).compact = s.compact := by
  unfold State.acknowledged; split <;> rfl
@[simp] theorem State.acknowledged_opened (s : State) : (s.acknowledged).opened = s.opened := by
  unfold State.acknowledged; split <;> rfl
@[simp] theorem State.acknowledged_lineBaud (s : State) : (s.acknowledged).lineBaud = s.lineBaud := by
  unfold State.acknowledged; split <;> rfl
@[simp] theorem State.acknowledged_op (s : State) : (s.acknowledged).op = s.op := by
  unfold State.acknowledged; split <;> rfl
@[simp] theorem State.acknowledged_csum (s : State) : (s.acknowledged).csum = s.csum := by
  unfold State.acknowledged; split <;> rfl
@[simp] theorem State.acknowledged_len (s : State) : (s.acknowledged).len = s.len := by
  unfold State.acknowledged; split <;> rfl
@[simp] theorem State.acknowledged_fill (s : State) : (s.acknowledged).fill = s.fill := by
  unfold State.acknowledged; split <;> rfl
@[simp] theorem State.acknowledged_rcount (s : State) : (s.acknowledged).rcount = s.rcount := by
  unfold State.acknowledged; split <;> rfl
@[simp] theorem State.acknowledged_baud (s : State) : (s.acknowledged).baud = s.baud := by
  unfold State.acknowledged; split <;> rfl
@[simp] theorem State.acknowledged_pbuf (s : State) : (s.acknowledged).pbuf = s.pbuf := by
  unfold State.acknowledged; split <;> rfl
@[simp] theorem State.acknowledged_rbuf (s : State) : (s.acknowledged).rbuf = s.rbuf := by
  unfold State.acknowledged; split <;> rfl
@[simp] theorem State.acknowledged_txlog (s : State) : (s.acknowledged).txlog = s.txlog := by
  unfold State.acknowledged; split <;> rfl
@[simp] theorem State.acknowledged_txbuf (s : State) : (s.acknowledged).txbuf = s.txbuf := by
  unfold State.acknowledged; split <;> rfl
@[simp] theorem State.acknowledged_txReady (s : State) : (s.acknowledged).txReady = s.txReady := by
  unfold State.acknowledged; split <;> rfl
@[simp] theorem State.acknowledged_rxq (s : State) : (s.acknowledged).rxq = s.rxq := by
  unfold State.acknowledged; split <;> rfl
@[simp] theorem State.acknowledged_timer (s : State) : (s.acknowledged).timer = .stopped := by
  unfold State.acknowledged; split <;> rfl
@[simp] theorem State.acknowledged_inputs (s : State) : (s.acknowledged).inputs = s.inputs := by
  unfold State.acknowledged; split <;> rfl
@[simp] theorem State.acknowledged_readLog (s : State) : (s.acknowledged).readLog = s.readLog := by
  unfold State.acknowledged; split <;> rfl
@[simp] theorem State.acknowledged_draws (s : State) : (s.acknowledged).draws = s.draws := by
  unfold State.acknowledged; split <;> rfl

theorem State.acknowledged_phase (s : State) :
    s.acknowledged.phase = match s.op with
      | .qfill => .rxPre
      | .rdbuf => .rxLen
      | .send | .sendb | .sendna | .sendbna => .idle := by
  unfold State.acknowledged; split <;> simp_all

theorem State.acknowledged_idx (s : State) :
    s.acknowledged.idx = if s.op = .qfill then 0 else s.idx := by
  unfold State.acknowledged; split <;> simp_all

theorem State.resetNow_eq (s : State) :
    s.resetNow = { State.resetOf s.cfg with inputs := s.inputs, readLog := s.readLog, draws := s.draws } := rfl

end Sys2Proof.Machine
end

