-- ==== Sys2Proof/Laws/Ops.lean ====
section
/-! SUPPORT. What each shared operation can do. -/

namespace Sys2Proof.Machine

@[simp] theorem State.whenAccepts_ready {s : State} (r : Result) (h : s.txReady = true) : s.whenAccepts r = r := by
  simp [State.whenAccepts, h]

@[simp] theorem State.whenAccepts_not {s : State} (r : Result) (h : s.txReady = false) : s.whenAccepts r = .next s := by
  simp [State.whenAccepts, h]

theorem State.onByte_nil {s : State} (k : Byte → State → Result) (h : s.rxq = []) : s.onByte k = .next s := by
  simp [State.onByte, State.rxAvail, h]

theorem State.onByte_cons {s : State} (k : Byte → State → Result) {b : Byte} {rest : List Byte}
    (h : s.rxq = b :: rest) : s.onByte k = k b { s with rxq := rest } := by
  simp [State.onByte, State.rxAvail, State.rxPop, h]

/-- The one-byte guard, once for all: it holds, or the oldest byte goes to the step. -/
theorem State.onByte_cases (s : State) (k : Byte → State → Result) :
    (s.rxq = [] ∧ s.onByte k = .next s) ∨ ∃ b rest, s.rxq = b :: rest ∧ s.onByte k = k b { s with rxq := rest } := by
  cases h : s.rxq with
  | nil => exact .inl ⟨rfl, State.onByte_nil k h⟩
  | cons b rest => exact .inr ⟨b, rest, rfl, State.onByte_cons k h⟩

/-- Everything the device's step can do. -/
theorem State.deviceAppend_cases (v : Byte) (s : State) :
    (s.opened = false ∧ s.deviceAppend v = .next s) ∨
    (s.opened = true ∧ s.rxFull = true ∧ s.deviceAppend v = .fault .rxOverflow) ∨
    (s.opened = true ∧ s.rxFull = false ∧
      s.deviceAppend v = .next { s with rxq := s.rxq ++ [v], timer := .stopped }) := by
  cases ho : s.opened <;> cases hf : s.rxFull <;> simp [State.deviceAppend, ho, hf]

theorem State.rxFull_eq_false_iff (s : State) :
    s.rxFull = false ↔ ∀ d, s.cfg.rxDepth = some d → s.rxq.length < d := by
  unfold State.rxFull
  cases s.cfg.rxDepth <;> simp

/-- Everything a command can do: be ignored, start the operation it names, or open the transport. -/
theorem exec_command_cases {i : Instr} (s : State) (hi : i.isCommand = true) :
    exec i s = .next s ∨
    (∃ o : Op, i = decodeCmd o.cmdByte ∧ s.phase = .idle ∧ s.opened = true ∧ exec i s = .next (s.issue o)) ∨
    (i = .openLine ∧ s.phase = .idle ∧ s.opened = false ∧
      exec i s = .next { s with opened := true, lineBaud := some s.baud }) := by
  have accept : ∀ o, acceptOp o s = .next s ∨ s.phase = .idle ∧ s.opened = true ∧ acceptOp o s = .next (s.issue o) := by
    intro o
    unfold acceptOp
    split_ifs with h
    · exact .inr ⟨h.1, h.2, rfl⟩
    · exact .inl rfl
  cases i with
  | send => exact (accept .send).imp id fun h => .inl ⟨.send, by decide, h⟩
  | sendb => exact (accept .sendb).imp id fun h => .inl ⟨.sendb, by decide, h⟩
  | sendna => exact (accept .sendna).imp id fun h => .inl ⟨.sendna, by decide, h⟩
  | sendbna => exact (accept .sendbna).imp id fun h => .inl ⟨.sendbna, by decide, h⟩
  | qfill => exact (accept .qfill).imp id fun h => .inl ⟨.qfill, by decide, h⟩
  | rdbuf => exact (accept .rdbuf).imp id fun h => .inl ⟨.rdbuf, by decide, h⟩
  | openLine =>
    simp only [exec, execOpenLine]
    split_ifs with h
    · exact .inr (.inr ⟨trivial, h.1, h.2, rfl⟩)
    · exact .inl rfl
  | reservedOpcode7 => exact .inl rfl
  | reservedBits hi opc => exact .inl rfl
  | frameA => simp [Instr.isCommand] at hi
  | frameB => simp [Instr.isCommand] at hi
  | queryFillFrame => simp [Instr.isCommand] at hi
  | queryReadFrame => simp [Instr.isCommand] at hi
  | ackByte => simp [Instr.isCommand] at hi
  | fillReply => simp [Instr.isCommand] at hi
  | bufferReply => simp [Instr.isCommand] at hi

theorem decodeCmd_isCommand (b : Byte) : (decodeCmd b).isCommand = true := by
  unfold decodeCmd
  split_ifs
  · rfl
  · split <;> rfl

/-- Every byte is one command: two bytes never decode alike (R91 to R93). -/
theorem decodeCmd_injective {a b : Byte} (h : decodeCmd a = decodeCmd b) : a = b := by
  have he : ∀ x : Byte, encodeCmd (decodeCmd x) = some x := by decide
  have := congrArg encodeCmd h
  rw [he, he] at this
  exact Option.some.inj this

/-- Everything a byte written to CMD can do: be ignored, start the operation it names, or open the transport (R27). -/
theorem exec_decodeCmd_cases (b : Byte) (s : State) :
    exec (decodeCmd b) s = .next s ∨
    (∃ o : Op, b = o.cmdByte ∧ s.phase = .idle ∧ s.opened = true ∧ exec (decodeCmd b) s = .next (s.issue o)) ∨
    (b = 6 ∧ s.phase = .idle ∧ s.opened = false ∧
      exec (decodeCmd b) s = .next { s with opened := true, lineBaud := some s.baud }) := by
  rcases exec_command_cases s (decodeCmd_isCommand b) with h | ⟨o, hb, h⟩ | ⟨hb, h⟩
  · exact .inl h
  · exact .inr (.inl ⟨o, decodeCmd_injective hb, h⟩)
  · exact .inr (.inr ⟨decodeCmd_injective (hb.trans (by decide)), h⟩)

/-- A payload byte's failure is the fault of a cell nothing has written, or of a cell that does not exist. -/
theorem Source.byte_error {src : Source} {s : State} {i : Nat} {f : Fault} (h : src.byte s i = .error f) :
    f = .unwrittenCell ∨ f = .noSuchCell := by
  cases src with
  | payload =>
    simp only [Source.byte, Memory.cell] at h
    split_ifs at h
    · split at h <;> simp_all
    · simp_all
  | queryFill =>
    simp only [Source.byte, constByte] at h
    split at h <;> simp_all
  | queryRead =>
    simp only [Source.byte, constByte] at h
    split at h <;> simp_all

/-- Everything an emission step can do. -/
theorem emit_cases (m : Mode) (src : Source) (s : State) :
    emit m src s = .next s ∨
    (s.phase = .txHdr ∧ s.txReady = true ∧ emit m src s = emitHdr m src s) ∨
    (s.phase = .txLen ∧ s.txReady = true ∧ emit m src s = emitLen src s) ∨
    (s.phase = .txPay ∧ s.txReady = true ∧ emit m src s = emitPay src s) ∨
    (s.phase = .txSum ∧ s.txReady = true ∧ emit m src s = emitSum s) := by
  cases hr : s.txReady <;> cases hp : s.phase <;>
    simp [emit, hp, hr, emitHdr, emitLen, emitPay, emitSum]

end Sys2Proof.Machine
end

