-- ==== Sys2Proof/Laws/Step.lean ====
section
/-! SUPPORT. One step of the machine, agent by agent. -/

namespace Sys2Proof.Machine

/-! The register numbers (R25), as `simp` writes them. -/

@[simp] theorem regOf_cmd : regOf 0#4 = .cmd := rfl
@[simp] theorem regOf_status : regOf 1#4 = .status := rfl
@[simp] theorem regOf_len : regOf 2#4 = .len := rfl
@[simp] theorem regOf_fill : regOf 3#4 = .fill := rfl
@[simp] theorem regOf_rcount : regOf 4#4 = .rcount := rfl
@[simp] theorem regOf_baud : regOf 5#4 = .baud := rfl

theorem regOf_reserved {n : BitVec 4} (h : 6 ≤ n.toNat) : regOf n = .reserved := by
  revert n; decide

theorem step_nil {s : State} (h : s.inputs = []) : step s = engineStep s := by
  simp [step, nextStep, h]

theorem step_cons {s : State} {inp : Input} {rest : List Input} (h : s.inputs = inp :: rest) :
    step s = agentStep inp { s with inputs := rest } := by
  simp [step, nextStep, h]

/-- The engine's step: it holds, or runs the format in progress. -/
theorem engineStep_cases (s : State) :
    (s.phase = .idle ∧ engineStep s = .next s) ∨
    (∃ i, s.inProgress = some i ∧ engineStep s = exec i s ∧ s.phase ≠ .idle) := by
  unfold engineStep
  cases h : s.inProgress with
  | none => left; cases hp : s.phase <;> simp_all [State.inProgress]
  | some i => right; exact ⟨i, rfl, rfl, by rintro hp; simp [State.inProgress, hp] at h⟩

/-- Every step is the engine's, or an input's on the state without that input. -/
theorem step_cases (s : State) :
    (s.inputs = [] ∧ step s = engineStep s) ∨
    ∃ inp rest, s.inputs = inp :: rest ∧ step s = agentStep inp { s with inputs := rest } := by
  cases h : s.inputs with
  | nil => exact .inl ⟨rfl, step_nil h⟩
  | cons inp rest => exact .inr ⟨inp, rest, rfl, step_cons h⟩

/-- Everything a host read can do: return a value, with the drawn counter as it was or one further, or fault on a cell
nothing has written. -/
theorem hostRead_cases (t : Target) (s : State) :
    (∃ v, hostRead t s = .next { s with readLog := s.readLog ++ [v] }) ∨
    (∃ v, s.busy = true ∧ hostRead t s = .next { s with readLog := s.readLog ++ [v], draws := s.draws + 1 }) ∨
    hostRead t s = .fault .unwrittenCell := by
  have result : ∀ e : Except Fault Byte, (∀ f, e = .error f → f = .unwrittenCell) →
      (∃ v, s.returnsResult e = .next { s with readLog := s.readLog ++ [v] }) ∨
      (∃ v, s.busy = true ∧ s.returnsResult e = .next { s with readLog := s.readLog ++ [v], draws := s.draws + 1 }) ∨
      s.returnsResult e = .fault .unwrittenCell := by
    intro e he
    unfold State.returnsResult
    split_ifs with hb
    · exact .inr (.inl ⟨_, hb, rfl⟩)
    · cases e with
      | ok b => exact .inl ⟨_, rfl⟩
      | error f => rw [he f rfl]; exact .inr (.inr rfl)
  cases t with
  | reg n =>
    simp only [hostRead, readReg]
    cases regOf n with
    | cmd => exact .inl ⟨_, rfl⟩
    | status => exact .inl ⟨_, rfl⟩
    | len => exact .inl ⟨_, rfl⟩
    | fill => exact result _ (by simp)
    | rcount => exact result _ (by simp)
    | baud => exact .inl ⟨_, rfl⟩
    | reserved => exact .inl ⟨_, rfl⟩
  | pbuf i =>
    simp only [hostRead, readPbuf]
    split_ifs with hi
    · cases hc : s.pbuf.cell i.toNat with
      | ok b => exact .inl ⟨_, rfl⟩
      | error f => rw [Memory.cell_error hi hc]; exact .inr (.inr rfl)
    · exact .inl ⟨_, rfl⟩
  | rbuf i =>
    simp only [hostRead, readRbuf]
    split_ifs with hi
    · exact result _ fun f hf => Memory.cell_error hi hf
    · exact .inl ⟨_, rfl⟩

/-- Everything a host write can do. -/
theorem hostWrite_cases (t : Target) (v : Nat) (s : State) :
    hostWrite t v s = .next s ∨
    hostWrite t v s = .refused .dataTooWide ∨
    (t = .reg 0 ∧ v < 256 ∧ hostWrite t v s = exec (decodeCmd (BitVec.ofNat 8 v)) s) ∨
    (s.busy = false ∧ hostWrite t v s = .next { s with len := BitVec.ofNat 8 v }) ∨
    (s.busy = false ∧ v < 2 ^ s.cfg.baudW ∧ hostWrite t v s = .next { s with baud := v }) ∨
    (∃ i, i < bufCells ∧ s.busy = false ∧
      hostWrite t v s = .next { s with pbuf := s.pbuf.write i (BitVec.ofNat 8 v) }) := by
  unfold hostWrite
  split_ifs with hv
  · cases t with
    | reg n =>
      simp only
      unfold writeReg
      cases hn : regOf n with
      | cmd =>
        have h0 : ∀ m : BitVec 4, regOf m = .cmd → m = 0 := by decide
        exact .inr (.inr (.inl ⟨by rw [h0 n hn], by simpa [Target.width, hn] using hv, rfl⟩))
      | len =>
        cases hb : s.busy
        · exact .inr (.inr (.inr (.inl ⟨rfl, by simp [State.unlessBusy, hb]⟩)))
        · exact .inl (by simp [State.unlessBusy, hb])
      | baud =>
        cases hb : s.busy
        · refine .inr (.inr (.inr (.inr (.inl ⟨rfl, ?_, by simp [State.unlessBusy, hb]⟩))))
          simpa [Target.width, hn] using hv
        · exact .inl (by simp [State.unlessBusy, hb])
      | status => exact .inl rfl
      | fill => exact .inl rfl
      | rcount => exact .inl rfl
      | reserved => exact .inl rfl
    | pbuf i =>
      simp only
      unfold writePbuf
      split_ifs with hi
      · cases hb : s.busy
        · exact .inr (.inr (.inr (.inr (.inr ⟨_, hi, rfl, by simp [State.unlessBusy, hb]⟩))))
        · exact .inl (by simp [State.unlessBusy, hb])
      · exact .inl rfl
    | rbuf i => exact .inl rfl
  · exact .inr (.inl rfl)

end Sys2Proof.Machine
end

