-- ==== Sys2Proof/Laws/Emission.lean ====
section
/-! SUPPORT. Each emission step, for every mode and payload source. -/

namespace Sys2Proof.Machine

variable {m : Mode} {src : Source} {s : State}

theorem emit_txHdr (hp : s.phase = .txHdr) (hr : s.txReady = true) :
    emit m src s = .next
      { s with
        txlog := s.txlog ++ [m.hdr], txbuf := s.txbuf ++ [m.hdr], csum := m.hdr, idx := 0
        phase := if m = .A then .txLen else if 0 < (src.len s).toNat then .txPay else .txSum } := by
  simp only [emit, hp, emitHdr, State.whenAccepts, hr, if_true, State.tx]
  cases m <;> rfl

theorem emit_txLen (hp : s.phase = .txLen) (hr : s.txReady = true) :
    emit m src s = .next
      { s with
        txlog := s.txlog ++ [src.len s], txbuf := s.txbuf ++ [src.len s], csum := s.csum + src.len s
        phase := if 0 < (src.len s).toNat then .txPay else .txSum } := by
  simp only [emit, hp, emitLen, State.whenAccepts, hr, if_true, State.tx, accumulate]

theorem emit_txPay {b : Byte} (hp : s.phase = .txPay) (hr : s.txReady = true) (hb : src.byte s s.idx.toNat = .ok b) :
    emit m src s = .next
      { s with
        txlog := s.txlog ++ [b], txbuf := s.txbuf ++ [b], csum := s.csum + b, idx := s.idx + 1
        phase := if s.idx.toNat + 1 = (src.len s).toNat then .txSum else .txPay } := by
  simp only [emit, hp, emitPay, State.whenAccepts, hr, if_true, State.tx, accumulate, hb]

theorem emit_txSum (hp : s.phase = .txSum) (hr : s.txReady = true) :
    emit m src s = .next
      { s with
        txlog := s.txlog ++ [s.csum], txbuf := s.txbuf ++ [s.csum]
        phase := if s.op.acked = true then .ackWait else .idle
        timer := if s.op.acked = true then (if s.cfg.boundedWait = true then .running else .stopped) else s.timer } := by
  simp only [emit, hp, emitSum, State.whenAccepts, hr, if_true, State.tx, State.enterAckWait]
  cases s.op.acked <;> rfl

/-- The format of the operation in progress emits its frame. -/
theorem exec_frameInstr (s : State) : exec s.frameInstr s = emit (s.op.mode s.compact) s.op.source s := by
  unfold State.frameInstr
  cases ho : s.op <;> cases hc : s.compact <;> rfl

/-- Where a payload byte comes from depends on PBUF alone. -/
theorem Source.byte_congr {s t : State} (h : t.pbuf = s.pbuf) (src : Source) (i : Nat) :
    src.byte t i = src.byte s i := by
  cases src <;> simp [Source.byte, h]

/-- The payload's length depends on LEN alone. -/
theorem Source.len_congr {s t : State} (h : t.len = s.len) (src : Source) : src.len t = src.len s := by
  cases src <;> simp [Source.len, h]

end Sys2Proof.Machine
end

