-- ==== Sys2Proof/Laws/PerInstr.lean ====
section
/-! SUPPORT. Statements about every constructor of `Instr`, one lemma each. -/

namespace Sys2Proof.Laws

/-- A well-formed command row has a command byte, and decoding that byte gives the row back; a wire format has none. -/
def CommandByte.Statement (i : Instr) : Prop :=
  (i.isCommand = true → i.wellFormed = true → ∃ b, encodeCmd i = some b ∧ decodeCmd b = i) ∧
  (i.isCommand = false → encodeCmd i = none)

namespace CommandByte

theorem send : Statement .send := ⟨fun _ _ => ⟨_, rfl, rfl⟩, nofun⟩
theorem sendb : Statement .sendb := ⟨fun _ _ => ⟨_, rfl, rfl⟩, nofun⟩
theorem sendna : Statement .sendna := ⟨fun _ _ => ⟨_, rfl, rfl⟩, nofun⟩
theorem sendbna : Statement .sendbna := ⟨fun _ _ => ⟨_, rfl, rfl⟩, nofun⟩
theorem qfill : Statement .qfill := ⟨fun _ _ => ⟨_, rfl, rfl⟩, nofun⟩
theorem rdbuf : Statement .rdbuf := ⟨fun _ _ => ⟨_, rfl, rfl⟩, nofun⟩
theorem openLine : Statement .openLine := ⟨fun _ _ => ⟨_, rfl, rfl⟩, nofun⟩
theorem reservedOpcode7 : Statement .reservedOpcode7 := ⟨fun _ _ => ⟨_, rfl, rfl⟩, nofun⟩
theorem reservedBits (hi : BitVec 5) (opc : BitVec 3) : Statement (.reservedBits hi opc) :=
  ⟨fun _ hw => ⟨_, rfl, by revert hi opc; decide⟩, nofun⟩
theorem frameA : Statement .frameA := ⟨nofun, fun _ => rfl⟩
theorem frameB : Statement .frameB := ⟨nofun, fun _ => rfl⟩
theorem queryFillFrame : Statement .queryFillFrame := ⟨nofun, fun _ => rfl⟩
theorem queryReadFrame : Statement .queryReadFrame := ⟨nofun, fun _ => rfl⟩
theorem ackByte : Statement .ackByte := ⟨nofun, fun _ => rfl⟩
theorem fillReply : Statement .fillReply := ⟨nofun, fun _ => rfl⟩
theorem bufferReply : Statement .bufferReply := ⟨nofun, fun _ => rfl⟩

end CommandByte

end Sys2Proof.Laws
end

