-- ==== Sys2Proof/Laws/Run.lean ====
section
/-! SUPPORT. Runs of the machine, cut into steps and joined again. -/

namespace Sys2Proof.Machine

@[simp] theorem run_zero (s : State) : Sys2Proof.core.run 0 s = .next s := rfl

theorem run_succ_next {s t : State} (h : step s = .next t) (k : Nat) :
    Sys2Proof.core.run (k + 1) s = Sys2Proof.core.run k t := by
  have hs : Sys2Proof.core.step s = .next t := h
  simp [Host.Core.run, hs]

/-- A run that ends in a next state begins with a step that does. -/
theorem run_succ_inv {s t : State} {k : Nat} (h : Sys2Proof.core.run (k + 1) s = .next t) :
    ∃ u : State, step s = .next u ∧ Sys2Proof.core.run k u = .next t := by
  cases hs : step s with
  | next u =>
    rw [run_succ_next hs] at h
    exact ⟨u, rfl, h⟩
  | fault f =>
    have hs' : Sys2Proof.core.step s = .fault f := hs
    simp [Host.Core.run, hs'] at h
  | refused r =>
    have hs' : Sys2Proof.core.step s = .refused r := hs
    simp [Host.Core.run, hs'] at h

theorem run_add {s t : State} (a b : Nat) (h : Sys2Proof.core.run a s = .next t) :
    Sys2Proof.core.run (a + b) s = Sys2Proof.core.run b t := by
  induction a generalizing s with
  | zero =>
    cases h
    rw [Nat.zero_add]
  | succ a ih =>
    obtain ⟨u, hu, hr⟩ := run_succ_inv h
    rw [Nat.add_right_comm, run_succ_next hu]
    exact ih hr

/-- What every step keeps, every run keeps. -/
theorem run_keeps {P : State → Prop} (hP : ∀ s t : State, P s → step s = .next t → P t) :
    ∀ (k : Nat) (s t : State), P s → Sys2Proof.core.run k s = .next t → P t := by
  intro k
  induction k with
  | zero => intro s t hs h; cases h; exact hs
  | succ k ih =>
    intro s t hs h
    obtain ⟨u, hu, hr⟩ := run_succ_inv h
    exact ih u t (hP s u hs hu) hr

/-- A state that a step leaves as it is stays so for any number of steps. -/
theorem run_of_fixed {s : State} (h : step s = .next s) (k : Nat) : Sys2Proof.core.run k s = .next s := by
  induction k with
  | zero => rfl
  | succ k ih => rw [run_succ_next h, ih]

/-- The next step is the engine's, whether the inputs say so or there is none. -/
theorem step_engine {s : State} {rest : List Input} (h : s.inputs = .engine :: rest) :
    step s = engineStep { s with inputs := rest } := step_cons h

/-- From a clean entry the command is accepted, and the issued state is ready for its first attempt (R241). -/
theorem State.CleanEntry.accepted {s : State} {o : Op} {p : List Byte} (h : s.CleanEntry o p) :
    acceptOp o s = .next (s.issue o) ∧ (s.issue o).phase = .txHdr ∧ (s.issue o).opened = true ∧
      (s.issue o).rxq = [] ∧ (s.issue o).NoResetComes ∧ (s.issue o).PayloadIs p := by
  obtain ⟨ho, hp, hq, hr, hP⟩ := h
  exact ⟨by simp [acceptOp, hp, ho], rfl, ho, hq, hr, hP⟩

/-- For the SEND family, `PayloadIs` is LEN and PBUF; for the queries it is the engine's constant, whatever LEN and PBUF
hold. -/
theorem State.issue_payloadIs (s : State) (o : Op) (p : List Byte) :
    (s.issue o).PayloadIs p ↔
      p.length = (o.source.len s).toNat ∧ ∀ i (h : i < p.length), o.source.byte s i = .ok p[i] := by
  cases o <;> exact Iff.rfl

end Sys2Proof.Machine
end

