-- ==== Sys2Proof/Laws/Transition.lean ====
section
/-! SUPPORT. Everything one step of the machine can do, said once: invariants are proved by cases over `Transition` and
`AgentTransition` and need not unfold a step. -/

namespace Sys2Proof.Machine

/-- What the engine's step can make of a state. -/
inductive Transition (s : State) : State → Prop
  | same : Transition s s
  | txHdr : s.phase = .txHdr → s.txReady = true →
      Transition s
        { s with
          txlog := s.txlog ++ [s.mode.hdr], txbuf := s.txbuf ++ [s.mode.hdr], csum := s.mode.hdr, idx := 0
          phase := if s.mode = .A then .txLen else if 0 < s.payloadLen then .txPay else .txSum }
  | txLen : s.phase = .txLen → s.txReady = true →
      Transition s
        { s with
          txlog := s.txlog ++ [s.op.source.len s], txbuf := s.txbuf ++ [s.op.source.len s]
          csum := s.csum + s.op.source.len s, phase := if 0 < s.payloadLen then .txPay else .txSum }
  | txPay (b : Byte) : s.phase = .txPay → s.txReady = true → s.op.source.byte s s.idx.toNat = .ok b →
      Transition s
        { s with
          txlog := s.txlog ++ [b], txbuf := s.txbuf ++ [b], csum := s.csum + b, idx := s.idx + 1
          phase := if s.idx.toNat + 1 = s.payloadLen then .txSum else .txPay }
  | txSum : s.phase = .txSum → s.txReady = true →
      Transition s
        { s with
          txlog := s.txlog ++ [s.csum], txbuf := s.txbuf ++ [s.csum]
          phase := if s.op.acked = true then .ackWait else .idle
          timer := if s.op.acked = true then (if s.cfg.boundedWait = true then .running else .stopped) else s.timer }
  | ack (rest : List Byte) : s.phase = .ackWait → s.rxq = s.cfg.ackCode :: rest →
      Transition s { s with rxq := rest }.acknowledged
  | nak (b : Byte) (rest : List Byte) : s.phase = .ackWait → s.rxq = b :: rest → b ≠ s.cfg.ackCode →
      Transition s { s with rxq := rest }.restartFrame
  | timeout : s.phase = .ackWait → s.rxq = [] → s.cfg.boundedWait = true →
      Transition s s.restartFrame
  | rxPre (b : Byte) (rest : List Byte) : s.phase = .rxPre → s.rxq = b :: rest →
      Transition s { s with rxq := rest, idx := s.idx + 1, phase := if s.idx.toNat + 1 = 2 then .rxFill else .rxPre }
  | rxFill (b : Byte) (rest : List Byte) : s.phase = .rxFill → s.rxq = b :: rest →
      Transition s { s with rxq := rest, fill := b, idx := 0, phase := .rxPost }
  | rxPost (b : Byte) (rest : List Byte) : s.phase = .rxPost → s.rxq = b :: rest →
      Transition s { s with rxq := rest, idx := s.idx + 1, phase := if s.idx.toNat + 1 = 2 then .idle else .rxPost }
  | rxLen (b : Byte) (rest : List Byte) : s.phase = .rxLen → s.rxq = b :: rest →
      Transition s { s with rxq := rest, rcount := b, idx := 0, phase := if 0 < b.toNat then .rxData else .rxTrail }
  | rxData (b : Byte) (rest : List Byte) : s.phase = .rxData → s.rxq = b :: rest → s.idx.toNat < bufCells →
      Transition s
        { s with
          rxq := rest, rbuf := s.rbuf.write s.idx.toNat b, idx := s.idx + 1
          phase := if s.idx.toNat + 1 = s.rcount.toNat then .rxTrail else .rxData }
  | rxTrail (b : Byte) (rest : List Byte) : s.phase = .rxTrail → s.rxq = b :: rest →
      Transition s { s with rxq := rest, phase := .idle }

/-- What a step of the agent an input names can make of a state. -/
inductive AgentTransition (s : State) : Option Input → State → Prop
  | engine (inp : Option Input) (t : State) : inp = none ∨ inp = some .engine → Transition s t → AgentTransition s inp t
  | ignored (inp : Option Input) : AgentTransition s inp s
  | issue (o : Op) : s.phase = .idle → s.opened = true →
      AgentTransition s (some (.host (.write (.reg 0) o.cmdByte.toNat))) (s.issue o)
  | openLine : s.phase = .idle → s.opened = false →
      AgentTransition s (some (.host (.write (.reg 0) 6))) { s with opened := true, lineBaud := some s.baud }
  | read (c : Target) (v d : Nat) : (s.busy = false → d = s.draws) →
      AgentTransition s (some (.host (.read c))) { s with readLog := s.readLog ++ [v], draws := d }
  | writeLen (c : Target) (v : Nat) (b : Byte) : s.phase = .idle →
      AgentTransition s (some (.host (.write c v))) { s with len := b }
  | writeBaud (c : Target) (v : Nat) : s.phase = .idle → v < 2 ^ s.cfg.baudW →
      AgentTransition s (some (.host (.write c v))) { s with baud := v }
  | writePbuf (c : Target) (v i : Nat) (b : Byte) : s.phase = .idle → i < bufCells →
      AgentTransition s (some (.host (.write c v))) { s with pbuf := s.pbuf.write i b }
  | device (v : Byte) : s.opened = true → s.rxFull = false →
      AgentTransition s (some (.device v)) { s with rxq := s.rxq ++ [v], timer := .stopped }
  | txReady (b : Bool) : AgentTransition s (some (.txReady b)) { s with txReady := b }
  | txDrain : AgentTransition s (some .txDrain) s.drain
  | reset : AgentTransition s (some .reset) s.resetNow

/-- What no step of the engine itself changes; idle, it changes nothing (R22, R23, R34, R37, R70). -/
theorem Transition.keeps {s t : State} (h : Transition s t) :
    t.cfg = s.cfg ∧ t.compact = s.compact ∧ t.opened = s.opened ∧ t.lineBaud = s.lineBaud ∧ t.op = s.op ∧
      (s.phase = .idle → t = s) := by
  cases h <;> simp_all

theorem State.busy_eq_false_iff (s : State) : s.busy = false ↔ s.phase = .idle := by simp [State.busy]

/-- A byte written to CMD. -/
theorem transition_of_command {v : Nat} {s t : State} (hv : v < 256)
    (h : exec (decodeCmd (BitVec.ofNat 8 v)) s = .next t) :
    AgentTransition s (some (.host (.write (.reg 0) v))) t := by
  have toNat : ∀ b : Byte, BitVec.ofNat 8 v = b → v = b.toNat := fun b hb => by
    rw [← hb, BitVec.toNat_ofNat, Nat.mod_eq_of_lt hv]
  rcases exec_decodeCmd_cases (BitVec.ofNat 8 v) s with e | ⟨o, hb, h1, h2, e⟩ | ⟨hb, h1, h2, e⟩ <;> rw [e] at h <;>
    cases h
  · exact .ignored _
  · rw [toNat _ hb]; exact .issue o h1 h2
  · rw [toNat _ hb]; exact .openLine h1 h2

theorem transition_of_emit {s t : State} (h : emit s.mode s.op.source s = .next t) : Transition s t := by
  rcases emit_cases s.mode s.op.source s with e | ⟨hp, hr, _⟩ | ⟨hp, hr, _⟩ | ⟨hp, hr, e⟩ | ⟨hp, hr, _⟩
  · rw [e] at h; cases h; exact .same
  · rw [emit_txHdr hp hr] at h; cases h; exact .txHdr hp hr
  · rw [emit_txLen hp hr] at h; cases h; exact .txLen hp hr
  · rw [e] at h
    simp only [emitPay, hr, State.whenAccepts_ready] at h
    split at h
    · cases h
    · rename_i b hb; cases h; exact .txPay b hp hr hb
  · rw [emit_txSum hp hr] at h; cases h; exact .txSum hp hr

theorem transition_of_awaitAck {s t : State} (hp : s.phase = .ackWait) (h : awaitAck s = .next t) :
    Transition s t := by
  unfold awaitAck at h
  cases hq : s.rxq with
  | nil =>
    simp [State.rxAvail, hq, timeoutOrWait] at h
    split_ifs at h with hh
    · cases h; exact .timeout hp hq hh
    · cases h; exact .same
  | cons b rest =>
    simp [State.rxAvail, hq, State.rxPop, judgeAck] at h
    split_ifs at h with hh
    · cases h; exact .ack rest hp (by rw [hq, hh])
    · cases h; exact .nak b rest hp hq hh

theorem transition_of_fillReply {s t : State} (h : execFillReply s = .next t) : Transition s t := by
  unfold execFillReply dropByte takeFill at h
  cases hq : s.rxq with
  | nil => split at h <;> (try rw [State.onByte_nil _ hq] at h) <;> cases h <;> exact .same
  | cons b rest =>
    split at h <;> (try rw [State.onByte_cons _ hq] at h) <;> cases h
    · exact .rxPre b rest ‹_› hq
    · exact .rxFill b rest ‹_› hq
    · exact .rxPost b rest ‹_› hq
    all_goals exact .same

theorem transition_of_bufferReply {s t : State} (h : execBufferReply s = .next t) : Transition s t := by
  unfold execBufferReply takeCount takeData dropTrail at h
  cases hq : s.rxq with
  | nil => split at h <;> (try rw [State.onByte_nil _ hq] at h) <;> cases h <;> exact .same
  | cons b rest =>
    split at h <;> (try rw [State.onByte_cons _ hq] at h)
    · cases h; exact .rxLen b rest ‹_› hq
    · by_cases hi : s.idx.toNat < bufCells
      · rw [if_pos hi] at h; cases h; exact .rxData b rest ‹_› hq hi
      · rw [if_neg hi] at h; cases h
    · cases h; exact .rxTrail b rest ‹_› hq
    all_goals cases h; exact .same

/-- The engine's step. -/
theorem transition_of_engineStep {s t : State} (h : engineStep s = .next t) : Transition s t := by
  unfold engineStep at h
  cases hp : s.phase <;> simp only [State.inProgress, hp] at h
  case idle => cases h; exact .same
  case txHdr | txLen | txPay | txSum => rw [exec_frameInstr] at h; exact transition_of_emit h
  case ackWait => exact transition_of_awaitAck hp (by simpa [exec, execAckByte, hp] using h)
  case rxPre | rxFill | rxPost => exact transition_of_fillReply h
  case rxLen | rxData | rxTrail => exact transition_of_bufferReply h

theorem transition_of_agentStep {s t : State} {inp : Input} (h : agentStep inp s = .next t) :
    AgentTransition s (some inp) t := by
  cases inp with
  | engine => exact .engine _ _ (.inr rfl) (transition_of_engineStep h)
  | host op =>
    cases op with
    | read c =>
      change hostRead c s = .next t at h
      rcases hostRead_cases c s with ⟨v, e⟩ | ⟨v, hb, e⟩ | e <;> rw [e] at h <;> cases h
      · exact .read c v _ fun _ => rfl
      · exact .read c v _ fun hn => by simp [hb] at hn
    | write c v =>
      change hostWrite c v s = .next t at h
      rcases hostWrite_cases c v s with e | e | ⟨hc, hv, e⟩ | ⟨hb, e⟩ | ⟨hb, hv, e⟩ | ⟨i, hi, hb, e⟩ <;>
        rw [e] at h
      · cases h; exact .ignored _
      · cases h
      · rw [hc]; exact transition_of_command hv h
      · cases h; exact .writeLen _ _ _ ((State.busy_eq_false_iff s).1 hb)
      · cases h; exact .writeBaud _ _ ((State.busy_eq_false_iff s).1 hb) hv
      · cases h; exact .writePbuf _ _ _ _ ((State.busy_eq_false_iff s).1 hb) hi
  | device v =>
    change s.deviceAppend v = .next t at h
    rcases State.deviceAppend_cases v s with ⟨_, e⟩ | ⟨_, _, e⟩ | ⟨h1, h2, e⟩ <;> rw [e] at h <;> cases h
    · exact .ignored _
    · exact .device v h1 h2
  | txReady b => cases h; exact .txReady b
  | txDrain => cases h; exact .txDrain
  | reset => cases h; exact .reset

/-- Every step: the transition of the agent whose input came first, on the state without that input. -/
theorem transition_of_step {s t : State} (h : step s = .next t) :
    ∃ rest, (∀ x ∈ rest, x ∈ s.inputs) ∧ AgentTransition { s with inputs := rest } s.inputs.head? t := by
  rcases step_cases s with ⟨h0, e⟩ | ⟨inp, rest, h0, e⟩ <;> rw [e] at h
  · refine ⟨[], by simp, ?_⟩
    have hs : ({ s with inputs := [] } : State) = s := by rw [← h0]
    rw [h0, hs]; exact .engine _ _ (.inl rfl) (transition_of_engineStep h)
  · refine ⟨rest, by rw [h0]; intro x hx; simp [hx], ?_⟩
    rw [h0]; exact transition_of_agentStep h

end Sys2Proof.Machine
end

