-- ==== Sys2Proof/Laws/Turns.lean ====
section
/-! SUPPORT. The engine's step does not depend on the inputs: turns the inputs list, and turns taken when none is left,
do the same. -/

namespace Sys2Proof.Machine

/-- The emission steps neither read nor change what the outside does next. -/
theorem emit_inputs {m : Mode} {src : Source} {s t : State} (r : List Input) (h : emit m src s = .next t) :
    emit m src { s with inputs := r } = .next { t with inputs := r } := by
  have hlen : src.len { s with inputs := r } = src.len s := Source.len_congr rfl src
  have hbyte : ∀ i, src.byte { s with inputs := r } i = src.byte s i := fun i => Source.byte_congr rfl src i
  obtain ⟨ready, hr⟩ : ∃ ready, s.txReady = ready := ⟨_, rfl⟩
  cases ready
  · have hold : ∀ u : State, u.txReady = false → emit m src u = .next u := by
      intro u hu
      cases hp : u.phase <;> simp [emit, hp, emitHdr, emitLen, emitPay, emitSum, hu]
    rw [hold s hr] at h
    cases h
    exact hold _ hr
  · obtain ⟨p, hp⟩ : ∃ p, s.phase = p := ⟨_, rfl⟩
    cases p
    case txHdr =>
      rw [emit_txHdr hp hr] at h; cases h
      rw [emit_txHdr (s := { s with inputs := r }) hp hr, hlen]
    case txLen =>
      rw [emit_txLen hp hr] at h; cases h
      rw [emit_txLen (s := { s with inputs := r }) hp hr, hlen]
    case txPay =>
      cases hb : src.byte s s.idx.toNat with
      | error f => simp [emit, hp, emitPay, hr, hb] at h
      | ok b =>
        rw [emit_txPay hp hr hb] at h; cases h
        rw [emit_txPay (s := { s with inputs := r }) hp hr ((hbyte _).trans hb), hlen]
    case txSum =>
      rw [emit_txSum hp hr] at h; cases h
      rw [emit_txSum (s := { s with inputs := r }) hp hr]
    all_goals
      simp only [emit, hp] at h ⊢
      cases h
      simp [hp]

/-- The engine's step neither reads nor changes what the outside does next. -/
theorem engineStep_inputs {s t : State} (r : List Input) (h : engineStep s = .next t) :
    engineStep { s with inputs := r } = .next { t with inputs := r } := by
  obtain ⟨cfg, compact, opened, lineBaud, phase, op, idx, csum, len, fill, rcount, baud, pbuf, rbuf, txlog, txbuf,
    txReady, rxq, timer, inputs, readLog, draws⟩ := s
  cases phase
  case idle => cases h; rfl
  case txHdr | txLen | txPay | txSum =>
    simp only [engineStep, State.inProgress] at h ⊢
    rw [exec_frameInstr] at h ⊢
    exact emit_inputs r h
  case ackWait =>
    cases rxq with
    | nil =>
      revert h
      simp only [engineStep, State.inProgress, exec, execAckByte, awaitAck, State.rxAvail, List.length_nil,
        timeoutOrWait, State.restartFrame, Nat.lt_irrefl, if_false]
      split_ifs <;> intro h <;> cases h <;> rfl
    | cons b rest =>
      cases op <;> revert h <;>
      simp only [engineStep, State.inProgress, exec, execAckByte, awaitAck, State.rxAvail, List.length_cons,
        Nat.zero_lt_succ, if_true, State.rxPop, judgeAck, State.restartFrame, State.acknowledged] <;>
      split_ifs <;> intro h <;> cases h <;> rfl
  case rxPre | rxFill | rxPost | rxLen | rxTrail =>
    cases rxq <;> cases h <;> rfl
  case rxData =>
    cases rxq with
    | nil => cases h; rfl
    | cons b rest =>
      revert h
      simp only [engineStep, State.inProgress, exec, execBufferReply, takeData]
      rw [State.onByte_cons _ rfl, State.onByte_cons _ rfl]
      dsimp only
      split_ifs <;> intro h <;> cases h <;> rfl

/-- Engine turns that the inputs list do what the engine does when nothing is left to list. -/
theorem run_engine_turns (n : Nat) : ∀ s t : State, s.inputs = List.replicate n .engine →
    Sys2Proof.core.run n s = .next t →
    Sys2Proof.core.run n { s with inputs := [] } = .next { t with inputs := [] } := by
  induction n with
  | zero => intro s t _ h; cases h; rfl
  | succ n ih =>
    intro s t hin h
    obtain ⟨u, hu, hr⟩ := run_succ_inv h
    rw [step_engine (rest := List.replicate n .engine) hin] at hu
    have hui : u.inputs = List.replicate n .engine := by
      have := engineStep_inputs (List.replicate n .engine) hu
      rw [hu] at this
      exact congrArg (fun x => match x with | .next v => State.inputs v | _ => []) this
    have h0 : step { s with inputs := [] } = .next { u with inputs := [] } :=
      (step_nil rfl).trans (engineStep_inputs (s := { s with inputs := List.replicate n .engine }) [] hu)
    rw [run_succ_next h0]
    exact ih u t hui hr

end Sys2Proof.Machine
end

