-- ==== Sys2Proof/Tests/Slice0.lean ====
section
/-! SUPPORT. The model's own tests. Expected bytes are from spec/95_test_vectors.md (V1 to V60) and from the encodings of
spec/30_encoding.md; a `witness_` theorem shows a state and operands that meet an obligation's hypotheses together. -/

namespace Sys2Proof.Tests

open Sys2Proof Sys2Proof.Machine

/-! Well-formedness: each check refuses an ill-formed term. -/

theorem test_reserved_bits_zero_refused : (Instr.reservedBits 0 5).wellFormed = false := by decide
theorem test_reserved_bits_set_accepted : (Instr.reservedBits 1 0).wellFormed = true := by decide
theorem test_wire_format_is_no_command : (Message.command .frameA).wellFormed = false := by decide
theorem test_command_with_zero_bits_refused : (Message.command (.reservedBits 0 0)).wellFormed = false := by decide
theorem test_frameA_of_256_refused : (Message.frameA (List.replicate 256 0)).wellFormed = false := by
  rw [Message.wellFormed, List.length_replicate]; rfl
theorem test_frameB_of_256_refused : (Message.frameB (List.replicate 256 0)).wellFormed = false := by
  rw [Message.wellFormed, List.length_replicate]; rfl
theorem test_reply_of_256_refused : (Message.bufferReply (List.replicate 256 0) 0).wellFormed = false := by
  rw [Message.wellFormed, List.length_replicate]; rfl
theorem test_wide_write_is_ill_formed : (HostOp.write (.reg 2) 256).wellFormed Config.default = false := by decide
theorem test_wide_write_refused : hostStep (.write (.pbuf 0) 256) State.reset = .refused .dataTooWide := by rfl

/-! Decoding: words written out from the encodings of the spec. -/

theorem test_decode_send : decodeTableWord 8 0b00000000 = some .send := by decide
theorem test_decode_sendb : decodeTableWord 8 0b00000001 = some .sendb := by decide
theorem test_decode_sendna : decodeTableWord 8 0b00000010 = some .sendna := by decide
theorem test_decode_sendbna : decodeTableWord 8 0b00000011 = some .sendbna := by decide
theorem test_decode_qfill : decodeTableWord 8 0b00000100 = some .qfill := by decide
theorem test_decode_rdbuf : decodeTableWord 8 0b00000101 = some .rdbuf := by decide
theorem test_decode_open : decodeTableWord 8 0b00000110 = some .openLine := by decide
theorem test_decode_reserved_opcode : decodeTableWord 8 0b00000111 = some .reservedOpcode7 := by decide
theorem test_decode_08 : decodeTableWord 8 0b00001000 = some (.reservedBits 1 0) := by decide
theorem test_decode_fe : decodeTableWord 8 0b11111110 = some (.reservedBits 31 6) := by decide
theorem test_decode_query_fill : decodeTableWord 32 0x1201495C = some .queryFillFrame := by decide
theorem test_decode_query_read : decodeTableWord 32 0x12015366 = some .queryReadFrame := by decide
/-- V1. -/
theorem test_decode_frameA : decodeTableWord 24 0x110011 = some .frameA := by decide
/-- V2. -/
theorem test_decode_frameB : decodeTableWord 16 0x1212 = some .frameB := by decide
/-- The five reply bytes of V30. -/
theorem test_decode_fill_reply : decodeTableWord 40 0x55662A7788 = some .fillReply := by decide
/-- The reply bytes of V40. -/
theorem test_decode_buffer_reply :
    decode .bufferReply [0x03, 0xAA, 0xBB, 0xCC, 0x00] = .ok (.bufferReply [0xAA, 0xBB, 0xCC] 0x00) := by rfl
/-- V41. -/
theorem test_decode_empty_reply : decode .bufferReply [0x00, 0x7F] = .ok (.bufferReply [] 0x7F) := by rfl
theorem test_decode_ack : decode .ackWait [0x06] = .ok (.ackByte 0x06) := by rfl

theorem test_reject_bad_checksum : decode .wireOut [0x11, 0x01, 0x06, 0x19] = .error .badChecksum := by rfl
theorem test_reject_header : decode .wireOut [0x13, 0x00, 0x13] = .error (.unknownHeader 0x13) := by rfl
theorem test_reject_length : decode .wireOut [0x11, 0x02, 0x06, 0x18] = .error .lengthMismatch := by rfl
theorem test_reject_two_acks : decode .ackWait [0x06, 0x06] = .error .extraBytes := by rfl
theorem test_reject_short_reply : decode .fillReply [0, 0, 0, 0] = .error .truncated := by rfl
theorem test_reject_nothing : decode .cmd [] = .error .noByte := by rfl
theorem test_reject_long_mode_b (body : List Byte) (h : 256 < body.length) :
    decode .wireOut (0x12 :: body) = .error .payloadTooLong := by
  simp [decode, decodeFrame, decodeFrameB, hdrA, hdrB, h]

/-! Encoding: the frames of V4, V5, V8, V13. -/

theorem test_encode_v4 : encode (.frameA [0xEE]) = [0x11, 0x01, 0xEE, 0x00] := by decide
theorem test_encode_v5 : encode (.frameB [0xEE]) = [0x12, 0xEE, 0x00] := by decide
theorem test_encode_v8 : encode (.frameB [0x80, 0x80]) = [0x12, 0x80, 0x80, 0x12] := by decide
theorem test_encode_v13 : encode (.frameB [0x03, 0x41, 0x53, 0x57]) = [0x12, 0x03, 0x41, 0x53, 0x57, 0x00] := by decide

/-! Small states. -/

/-- An open, idle engine. -/
def opened : State := { State.reset with opened := true, lineBaud := some 9600, baud := 9600 }

/-- An open engine with LEN and PBUF holding `AA 55`, at phase `p` of operation `o`. -/
def at_ (p : Phase) (o : Op) : State :=
  { opened with phase := p, op := o, len := 2, pbuf := [(0, 0xAA), (1, 0x55)] }

/-- `at_` with bytes in RXQ. -/
def withRxq (p : Phase) (o : Op) (q : List Byte) : State := { at_ p o with rxq := q }

/-- The one-byte-queue variant. -/
def shallow : State := { opened with cfg := { Config.default with rxDepth := some 1 } }

/-- The bounded-wait variant, waiting for an acknowledgment. -/
def bounded : State :=
  { at_ .ackWait .send with cfg := { Config.default with boundedWait := true }, timer := .running }

/-! One step. -/

/-- The next state's field, if there is one. -/
def field {α : Type} (f : State → α) (r : Result) : Option α :=
  match r with
  | .next t => some (f t)
  | .fault _ | .refused _ => none

/-- V56. -/
theorem test_send_makes_busy :
    field (fun t => (t.status, t.op)) (hostStep (.write (.reg 0) 0x00) (at_ .idle .rdbuf)) = some (0x03, .send) := by decide
/-- V51. -/
theorem test_send_before_open_ignored : hostStep (.write (.reg 0) 0x00) State.reset = .next State.reset := by rfl
theorem test_sendb_latches_op : field State.op (exec .sendb opened) = some .sendb := by decide
theorem test_sendna_latches_op : field State.op (exec .sendna opened) = some .sendna := by decide
theorem test_sendbna_latches_op : field State.op (exec .sendbna opened) = some .sendbna := by decide
theorem test_qfill_starts : field (fun t => (t.op, t.phase)) (exec .qfill opened) = some (.qfill, .txHdr) := by decide
theorem test_rdbuf_starts : field (fun t => (t.op, t.phase)) (exec .rdbuf opened) = some (.rdbuf, .txHdr) := by decide
/-- V52. -/
theorem test_open_status : field (fun t => (t.status, t.txlog)) (exec .openLine State.reset) = some (0x02, []) := by decide
/-- V53. -/
theorem test_open_again_ignored : exec .openLine opened = .next opened := by rfl
/-- V54. -/
theorem test_reserved_opcode_ignored : hostStep (.write (.reg 0) 0x07) opened = .next opened := by rfl
/-- V55: `08` does not start SEND. -/
theorem test_reserved_bits_ignored : hostStep (.write (.reg 0) 0x08) opened = .next opened := by rfl
/-- V18: the length byte of `11 02 AA 55 12`. -/
theorem test_frameA_length :
    field (fun t => (t.txlog, t.phase)) (exec .frameA (at_ .txLen .send)) = some ([0x02], .txPay) := by decide
/-- V19: the last payload byte of `12 AA 55 11`. -/
theorem test_frameB_last_byte :
    field (fun t => (t.txlog, t.csum, t.phase)) (exec .frameB { at_ .txPay .sendb with idx := 1, csum := 0xBC }) =
      some ([0x55], 0x11, .txSum) := by decide
/-- V28: SENDNA is over as soon as the checksum byte is accepted. -/
theorem test_unacknowledged_ends :
    field (fun t => (t.txlog, t.phase)) (exec .frameA { at_ .txSum .sendna with csum := 0x12 }) = some ([0x12], .idle) := by
  decide
/-- V30: the second payload byte of `12 01 49 5C`. -/
theorem test_query_fill_byte :
    field (fun t => (t.txlog, t.csum)) (exec .queryFillFrame { at_ .txPay .qfill with idx := 1, csum := 0x13 }) =
      some ([0x49], 0x5C) := by decide
/-- V40: the second payload byte of `12 01 53 66`. -/
theorem test_query_read_byte :
    field (fun t => (t.txlog, t.csum)) (exec .queryReadFrame { at_ .txPay .rdbuf with idx := 1, csum := 0x13 }) =
      some ([0x53], 0x66) := by decide
/-- V25: the comparison is on all 8 bits. -/
theorem test_ack_86_is_negative :
    field (fun t => (t.phase, t.rxq)) (exec .ackByte (withRxq .ackWait .send [0x86])) = some (.txHdr, []) := by decide
/-- V23. -/
theorem test_ack_06_is_positive :
    field (fun t => (t.phase, t.rxq)) (exec .ackByte (withRxq .ackWait .send [0x06])) = some (.idle, []) := by decide
/-- V30. -/
theorem test_fill_level : field State.fill (exec .fillReply (withRxq .rxFill .qfill [0x2A, 0x77])) = some 0x2A := by decide
/-- V34: a further byte stays queued. -/
theorem test_fill_reply_ends :
    field (fun t => (t.phase, t.rxq)) (exec .fillReply { withRxq .rxPost .qfill [0x88, 0x99] with idx := 1 }) =
      some (.idle, [0x99]) := by decide
/-- V41. -/
theorem test_empty_buffer_reply :
    field (fun t => (t.rcount, t.phase)) (exec .bufferReply (withRxq .rxLen .rdbuf [0x00, 0x7F])) = some (0, .rxTrail) := by
  decide
/-- V43: the cell 254 is the last. -/
theorem test_buffer_reply_last_cell :
    field (fun t => (t.rbuf, t.phase)) (exec .bufferReply { withRxq .rxData .rdbuf [0x5A] with idx := 254, rcount := 255 }) =
      some ([(254, 0x5A)], .rxTrail) := by decide

/-! Fetching: the row placed is the row run. -/

theorem test_fetch_command : step (State.reset.withFetchWord 8 0x01) = exec .sendb State.reset := by rfl
theorem test_fetch_query :
    field State.txlog (step (State.reset.withFetchWord 32 0x1201495C)) = some [0x12] := by decide
theorem test_fetch_frame : field State.txlog (step (State.reset.withFetchWord 16 0x1212)) = some [0x12] := by decide

/-! Witnesses: a state and operands that meet the hypotheses of each obligation, clause by clause. -/

theorem witness_CommandBytesDecode : (1 : BitVec 5) ≠ 0 ∧ (31 : BitVec 5) ≠ 0 := by decide

theorem witness_DecodeOfEncodeIsCanonical :
    (Message.frameA (List.replicate 255 0xFF)).wellFormed = true ∧ (Message.frameB payloadQF).wellFormed = true ∧
      (Message.frameB []).wellFormed = true ∧ (Message.command (.reservedBits 31 7)).wellFormed = true ∧
      (Message.bufferReply (List.replicate 255 0) 0).wellFormed = true := by
  refine ⟨?_, rfl, rfl, rfl, ?_⟩ <;> rw [Message.wellFormed, List.length_replicate] <;> rfl

theorem witness_EncodeOfDecodeIsTheBytes :
    decode .cmd [0xFF] = .ok (.command (.reservedBits 31 7)) ∧ decode .wireOut [0x12, 0x12] = .ok (.frameB []) ∧
      decode .ackWait [0x00] = .ok (.ackByte 0) ∧ decode .fillReply [1, 2, 3, 4, 5] = .ok (.fillReply 1 2 3 4 5) ∧
      decode .bufferReply [0, 0] = .ok (.bufferReply [] 0) :=
  ⟨rfl, rfl, rfl, rfl, rfl⟩

theorem witness_ChecksumIsTheSumModulo256 : (List.replicate 255 (0xFF : Byte)).length ≤ 255 := by
  rw [List.length_replicate]

/-- The inputs of each clause, and all seven kinds of format in progress. -/
theorem witness_StepRunsTheFetchedInstruction :
    ({ opened with inputs := [.host (.write (.reg 0) (0xFF : Byte).toNat)] } : State).inputs =
        .host (.write (.reg 0) (0xFF : Byte).toNat) :: [] ∧
      (at_ .txHdr .send).inProgress = some .frameA ∧ (at_ .txHdr .send).inputs = [] ∧
      ({ at_ .rxData .rdbuf with inputs := [.engine] } : State).inProgress = some .bufferReply ∧
      ({ at_ .rxData .rdbuf with inputs := [.engine] } : State).inputs = .engine :: [] ∧
      opened.phase = .idle ∧ opened.inputs = [] ∧
      ({ opened with inputs := [.engine] } : State).phase = .idle ∧
      ({ opened with inputs := [.engine] } : State).inputs = .engine :: [] ∧
      ({ opened with inputs := [.host (.write (.pbuf 0) 0x1B)] } : State).inputs = .host (.write (.pbuf 0) 0x1B) :: [] :=
  ⟨rfl, rfl, rfl, rfl, rfl, rfl, rfl, rfl, rfl, rfl⟩

theorem witness_FormatInProgress :
    (at_ .txHdr .send).phase.emits = true ∧ (at_ .txHdr .send).op = .send ∧ (at_ .txHdr .send).compact = false ∧
      ({ at_ .txSum .sendna with compact := true } : State).phase.emits = true ∧
      ({ at_ .txSum .sendna with compact := true } : State).op = .sendna ∧
      ({ at_ .txSum .sendna with compact := true } : State).compact = true ∧
      (at_ .txPay .sendb).op = .sendb ∧ (at_ .txPay .qfill).op = .qfill ∧ (at_ .txPay .rdbuf).op = .rdbuf ∧
      (at_ .txPay .rdbuf).phase.emits = true ∧ (at_ .ackWait .send).phase = .ackWait ∧
      (at_ .rxPost .qfill).phase = .rxPost ∧ (at_ .rxTrail .rdbuf).phase = .rxTrail ∧ opened.phase = .idle := by
  decide

/-- SendFamilyStarts and QueriesStart. -/
theorem witness_SendFamilyStarts : opened.phase = .idle ∧ opened.opened = true := ⟨rfl, rfl⟩
theorem witness_QueriesStart : (at_ .idle .send).phase = .idle ∧ (at_ .idle .send).opened = true := ⟨rfl, rfl⟩
theorem witness_OpenOpensTheTransport : State.reset.phase = .idle ∧ State.reset.opened = false := ⟨rfl, rfl⟩

/-- The five cases, at the boundaries of the byte ranges. -/
theorem witness_UnacceptedCommandsAreIgnored :
    (0x08 : Byte).toNat / 8 ≠ 0 ∧ (0x07 : Byte).toNat % 8 = 7 ∧ (at_ .txHdr .send).phase ≠ .idle ∧
      ((0x05 : Byte).toNat % 8 ≤ 5 ∧ State.reset.opened = false) ∧ ((0x06 : Byte).toNat % 8 = 6 ∧ opened.opened = true) := by
  decide

theorem witness_CommandFrame :
    Instr.isCommand .send = true ∧ exec .send opened = .next { opened with op := .send, phase := .txHdr } ∧
      Instr.isCommand .openLine = true ∧
      exec .openLine State.reset = .next { State.reset with opened := true, lineBaud := some 0 } :=
  ⟨rfl, rfl, rfl, rfl⟩

theorem witness_TxHdrStep : (at_ .txHdr .send).phase = .txHdr ∧ (at_ .txHdr .send).txReady = true := ⟨rfl, rfl⟩
theorem witness_TxLenStep : (at_ .txLen .send).phase = .txLen ∧ (at_ .txLen .send).txReady = true := ⟨rfl, rfl⟩

/-- A written cell, also the last one; and both bytes of a query. -/
theorem witness_TxPayStep :
    (at_ .txPay .send).phase = .txPay ∧ (at_ .txPay .send).txReady = true ∧ (at_ .txPay .send).idx.toNat < 255 ∧
      (at_ .txPay .send).pbuf.read (at_ .txPay .send).idx.toNat = some 0xAA ∧
      ({ at_ .txPay .send with idx := 254, len := 255, pbuf := [(254, 1)] } : State).idx.toNat < 255 ∧
      ({ at_ .txPay .send with idx := 254, len := 255, pbuf := [(254, 1)] } : State).pbuf.read 254 = some 1 ∧
      (at_ .txPay .qfill).idx = 0 ∧ ({ at_ .txPay .rdbuf with idx := 1 } : State).idx = 1 := by
  decide

theorem witness_UnwrittenPayloadCellFaults :
    ({ at_ .txPay .send with idx := 254 } : State).phase = .txPay ∧
      ({ at_ .txPay .send with idx := 254 } : State).txReady = true ∧
      ({ at_ .txPay .send with idx := 254 } : State).idx.toNat < 255 ∧
      ({ at_ .txPay .send with idx := 254 } : State).pbuf.read 254 = none ∧
      ({ at_ .txPay .send with idx := 255 } : State).idx = 255 ∧
      2 ≤ ({ at_ .txPay .qfill with idx := 2 } : State).idx.toNat := by
  decide

theorem witness_TxSumStep :
    (at_ .txSum .qfill).phase = .txSum ∧ (at_ .txSum .qfill).txReady = true ∧ (at_ .txSum .qfill).op ≠ .sendna ∧
      (at_ .txSum .qfill).op ≠ .sendbna ∧ (at_ .txSum .sendna).phase = .txSum ∧ (at_ .txSum .sendna).txReady = true ∧
      (at_ .txSum .sendna).op = .sendna := by
  decide

theorem witness_EmissionWaitsForTheTransport :
    ({ at_ .txPay .send with txReady := false } : State).phase.emits = true ∧
      ({ at_ .txPay .send with txReady := false } : State).txReady = false ∧
      ({ opened with inputs := [.txReady false] } : State).inputs = .txReady false :: [] ∧
      ({ opened with inputs := [.txDrain], txbuf := [1, 2] } : State).inputs = .txDrain :: [] ∧
      ({ opened with inputs := [.txDrain], txbuf := [1, 2] } : State).txbuf = 1 :: [2] ∧ opened.txbuf = [] :=
  ⟨rfl, rfl, rfl, rfl, rfl, rfl⟩

theorem witness_EmissionFrame :
    exec .frameA (at_ .txLen .send) =
      .next { at_ .txLen .send with txlog := [0x02], txbuf := [0x02], csum := 0x02, phase := .txPay } := by
  rfl

theorem witness_AckStep :
    (withRxq .ackWait .send [0x06]).phase = .ackWait ∧
      (withRxq .ackWait .send [0x06]).rxq = (withRxq .ackWait .send [0x06]).cfg.ackCode :: [] ∧
      (withRxq .ackWait .send [0x06]).op = .send ∧ (withRxq .ackWait .qfill [0x06]).op = .qfill ∧
      (withRxq .ackWait .rdbuf [0x06]).op = .rdbuf := by
  decide

theorem witness_NakStep :
    (withRxq .ackWait .send [0x07]).phase = .ackWait ∧ (withRxq .ackWait .send [0x07]).rxq = 0x07 :: [] ∧
      (0x07 : Byte) ≠ (withRxq .ackWait .send [0x07]).cfg.ackCode := by
  decide

theorem witness_TimeoutStep :
    bounded.phase = .ackWait ∧ bounded.rxq = [] ∧ bounded.cfg.boundedWait = true ∧ bounded.inputs = [] ∧
      ({ bounded with inputs := [.engine] } : State).inputs = .engine :: [] := by
  decide

/-- The invariant holds of a state in the middle of an acknowledged operation of the bounded variant. -/
theorem bounded_inv : bounded.Inv := by
  constructor <;> simp [bounded, at_, opened, State.reset, State.resetOf, Config.default, Memory.wf, Memory.inRange,
    bufCells, State.SequencerOk, Op.acked]

/-- Both clauses: about to send, and waiting. -/
theorem witness_ElapsedWindowRetries :
    bounded.cfg.boundedWait = true ∧ bounded.op.acked = true ∧ bounded.rxq = [] ∧ bounded.txReady = true ∧
      bounded.PayloadIs [0xAA, 0x55] ∧ bounded.inputs = [] ∧ bounded.phase = .ackWait ∧
      ({ bounded with phase := .txHdr, timer := .stopped } : State).phase = .txHdr ∧
      ({ bounded with phase := .txHdr, timer := .stopped } : State).PayloadIs [0xAA, 0x55] :=
  ⟨rfl, rfl, rfl, rfl, ⟨rfl, by decide⟩, rfl, rfl, rfl, ⟨rfl, by decide⟩⟩

theorem witness_AckWaitHasNoTimeout :
    (at_ .ackWait .send).phase = .ackWait ∧ (at_ .ackWait .send).rxq = [] ∧
      (at_ .ackWait .send).cfg.boundedWait = false ∧ (at_ .ackWait .send).inputs = [] := by
  decide

theorem witness_AckFrame :
    exec .ackByte (withRxq .ackWait .qfill [0x06]) = .next { at_ .rxPre .qfill with idx := 0 } := by rfl

/-- Dropping the first and the second byte, the level, and dropping the last. -/
theorem witness_FillReplySteps :
    (withRxq .rxPre .qfill [0x55]).rxq = 0x55 :: [] ∧ (withRxq .rxPre .qfill [0x55]).phase = .rxPre ∧
      (withRxq .rxPre .qfill [0x55]).idx.toNat < 2 ∧
      ({ withRxq .rxPre .qfill [0x66] with idx := 1 } : State).idx.toNat < 2 ∧
      (withRxq .rxFill .qfill [0x2A]).phase = .rxFill ∧
      ({ withRxq .rxPost .qfill [0x88] with idx := 1 } : State).phase = .rxPost := by
  decide

theorem witness_RxLenStep :
    (withRxq .rxLen .rdbuf [0xFF]).phase = .rxLen ∧ (withRxq .rxLen .rdbuf [0xFF]).rxq = 0xFF :: [] ∧
      (withRxq .rxLen .rdbuf [0x00]).rxq = 0x00 :: [] := by
  decide

theorem witness_RxDataStep :
    ({ withRxq .rxData .rdbuf [1] with idx := 254, rcount := 255 } : State).phase = .rxData ∧
      ({ withRxq .rxData .rdbuf [1] with idx := 254, rcount := 255 } : State).rxq = 1 :: [] ∧
      ({ withRxq .rxData .rdbuf [1] with idx := 254, rcount := 255 } : State).idx.toNat <
        ({ withRxq .rxData .rdbuf [1] with idx := 254, rcount := 255 } : State).rcount.toNat := by
  decide

theorem witness_RxTrailStep :
    (withRxq .rxTrail .rdbuf [0x7F]).phase = .rxTrail ∧ (withRxq .rxTrail .rdbuf [0x7F]).rxq = 0x7F :: [] := by decide

theorem witness_ReplyPhasesWait :
    (at_ .rxData .rdbuf).rxq = [] ∧ (at_ .rxData .rdbuf).inputs = [] ∧ (at_ .rxData .rdbuf).phase.inAttempt = false := by
  decide

theorem witness_FillReplyFrame :
    exec .fillReply (withRxq .rxFill .qfill [0x2A]) = .next { at_ .rxPost .qfill with fill := 0x2A } := by rfl

theorem witness_BufferReplyFrame :
    exec .bufferReply { withRxq .rxData .rdbuf [0xBB] with rcount := 2 } =
      .next { at_ .rxData .rdbuf with rcount := 2, rbuf := [(0, 0xBB)], idx := 1 } := by
  rfl

theorem witness_HostReadsChangeNothing :
    hostStep (.read (.reg 1)) opened = .next { opened with readLog := [2] } ∧
      hostStep (.read (.reg 3)) (at_ .rxFill .qfill) =
        .next { at_ .rxFill .qfill with readLog := [(Config.freeByte 0).toNat], draws := 1 } ∧ opened.busy = false :=
  ⟨rfl, rfl, rfl⟩

theorem witness_RegisterReads : 6 ≤ (6 : BitVec 4).toNat ∧ 6 ≤ (15 : BitVec 4).toNat ∧ opened.phase = .idle := by decide

theorem witness_BufferReads :
    (254 : Byte) ≠ 255 ∧ (at_ .idle .send).pbuf.read (0 : Byte).toNat = some 0xAA ∧
      (at_ .idle .send).pbuf.read (254 : Byte).toNat = none ∧ (at_ .idle .send).phase = .idle ∧
      ({ at_ .idle .send with rbuf := [(254, 9)] } : State).rbuf.read (254 : Byte).toNat = some 9 ∧
      (at_ .idle .send).rbuf.read (0 : Byte).toNat = none := by
  decide

theorem witness_BusyResultReadsAreFree : (at_ .ackWait .send).phase ≠ .idle ∧ (254 : Byte) ≠ 255 := by decide

theorem witness_IdleHostWritesStore :
    opened.phase = .idle ∧ 255 < 256 ∧ 2 ^ 32 - 1 < 2 ^ opened.cfg.baudW ∧ (254 : Byte) ≠ 255 := by decide

/-- Each target at the top of its range, BAUD above a byte's, and a value too wide for each width. -/
theorem witness_IgnoredHostWrites :
    255 < 256 ∧ (at_ .txHdr .send).phase ≠ .idle ∧ 2 ^ 32 - 1 < 2 ^ (at_ .txHdr .send).cfg.baudW ∧
      ((1 : BitVec 4) = 1 ∧ 6 ≤ (6 : BitVec 4).toNat ∧ 6 ≤ (15 : BitVec 4).toNat) ∧
      2 ^ (Target.pbuf 0).width opened.cfg ≤ 256 ∧ 2 ^ (Target.reg 5).width opened.cfg ≤ 2 ^ 32 := by
  decide

theorem witness_DeviceAppends :
    ({ State.reset with inputs := [.device 7] } : State).inputs = .device 7 :: [] ∧ State.reset.opened = false ∧
      opened.opened = true ∧ (∀ d, opened.cfg.rxDepth = some d → opened.rxq.length < d) ∧
      shallow.opened = true ∧ (∀ d, shallow.cfg.rxDepth = some d → shallow.rxq.length < d) ∧
      ({ shallow with rxq := [1] } : State).cfg.rxDepth = some 1 ∧ 1 ≤ ({ shallow with rxq := [1] } : State).rxq.length := by
  refine ⟨rfl, rfl, rfl, ?_, rfl, ?_, rfl, by decide⟩
  · simp [opened, State.reset, State.resetOf, Config.default]
  · simp [shallow, opened, State.reset, State.resetOf]

theorem witness_ResetAbandonsTheOperation :
    ({ at_ .txPay .send with inputs := [.reset] } : State).inputs = .reset :: [] := rfl

/-- The step is V29's TIMEOUT. -/
theorem witness_EveryStepKeepsTheInvariant :
    bounded.Inv ∧ step bounded = .next { bounded with phase := .txHdr, timer := .stopped } :=
  ⟨bounded_inv, rfl⟩

/-- In the middle of the mode A frame `11 02 AA 55 12`, one payload byte sent. -/
def midFrame : State :=
  { at_ .txPay .send with idx := 1, txlog := [0x11, 0x02, 0xAA], txbuf := [0x11, 0x02, 0xAA], csum := 0xBD }

theorem witness_EveryStepKeepsTheAttempt :
    midFrame.EmissionInv ∧
      step midFrame =
        .next { midFrame with
          txlog := [0x11, 0x02, 0xAA, 0x55], txbuf := [0x11, 0x02, 0xAA, 0x55], csum := 0x12, idx := 2, phase := .txSum } := by
  refine ⟨?_, rfl⟩
  show _ < _ ∧ _ <:+ _ ∧ _ = _
  refine ⟨by decide, ⟨[], rfl⟩, rfl⟩

/-- A run of the invariant can end in each of the two faults. -/
theorem witness_OnlyTheNamedFaults :
    (at_ .txPay .send).Inv ∧ step { at_ .txPay .send with pbuf := [] } = .fault .unwrittenCell ∧
      step { shallow with rxq := [1], inputs := [.device 2] } = .fault .rxOverflow := by
  refine ⟨?_, rfl, rfl⟩
  constructor <;> simp [at_, opened, State.reset, State.resetOf, Config.default, Memory.wf, Memory.inRange, bufCells,
    State.SequencerOk, State.payloadLen, Op.source, Source.len]

theorem witness_ConfigurationIsConstant :
    step { at_ .txHdr .send with inputs := [.txReady false] } = .next { at_ .txHdr .send with txReady := false } ∧
      ({ at_ .txHdr .send with inputs := [.txReady false] } : State).noReset ∧ (at_ .txHdr .send).opened = true ∧
      (at_ .txHdr .send).phase ≠ .idle := by
  refine ⟨rfl, by simp [State.noReset], rfl, by decide⟩

/-- OPEN changes OPENED; the write of RDBUF's byte changes OP and starts the operation. -/
theorem witness_ConfigurationIsConstant_changes :
    ({ State.reset with inputs := [.host (.write (.reg 0) 6)] } : State).noReset ∧
      field State.opened (step { State.reset with inputs := [.host (.write (.reg 0) 6)] }) = some true ∧
      State.reset.opened = false ∧
      ({ opened with inputs := [.host (.write (.reg 0) 5)] } : State).noReset ∧ opened.phase = .idle ∧
      field State.op (step { opened with inputs := [.host (.write (.reg 0) 5)] }) = some .rdbuf ∧ opened.op = .send ∧
      field State.phase (step { opened with inputs := [.host (.write (.reg 0) 5)] }) = some .txHdr := by
  refine ⟨by simp [State.noReset], by decide, rfl, by simp [State.noReset], rfl, by decide, rfl, by decide⟩

/-- The host writes LEN while BUSY = 1 (V57). -/
theorem witness_PayloadIsFixedWhileBusy :
    (at_ .ackWait .send).phase ≠ .idle ∧ ({ at_ .ackWait .send with inputs := [.host (.write (.reg 2) 0)] } : State).noReset ∧
      step { at_ .ackWait .send with inputs := [.host (.write (.reg 2) 0)] } = .next (at_ .ackWait .send) := by
  refine ⟨by decide, by simp [State.noReset], rfl⟩

/-- Each clause's step writes its result. -/
theorem witness_ResultsAreWrittenByTheirStepsAlone :
    (withRxq .rxFill .qfill [0x2A]).noReset ∧
      step (withRxq .rxFill .qfill [0x2A]) = .next { at_ .rxPost .qfill with fill := 0x2A } ∧
      step (withRxq .rxLen .rdbuf [0x02]) = .next { at_ .rxData .rdbuf with rcount := 2 } ∧
      step { withRxq .rxData .rdbuf [0xBB] with rcount := 2 } =
        .next { at_ .rxData .rdbuf with rcount := 2, rbuf := [(0, 0xBB)], idx := 1 } := by
  refine ⟨by simp [State.noReset, withRxq, at_, opened, State.reset, State.resetOf], rfl, rfl, rfl⟩

theorem witness_TxlogOnlyGrows : midFrame.noReset ∧ field State.txlog (step midFrame) = some [0x11, 0x02, 0xAA, 0x55] := by
  refine ⟨by simp [State.noReset, midFrame, at_, opened, State.reset, State.resetOf], by decide⟩

/-- The oldest of two bytes leaves; a byte of the device comes last. -/
theorem witness_RxqIsFirstInFirstOut :
    (withRxq .rxPre .qfill [1, 2]).noReset ∧ field State.rxq (step (withRxq .rxPre .qfill [1, 2])) = some [2] ∧
      field State.rxq (step { withRxq .txHdr .send [1] with inputs := [.device 2] }) = some [1, 2] := by
  refine ⟨by simp [State.noReset, withRxq, at_, opened, State.reset, State.resetOf], by decide, by decide⟩

/-- The clause on the start of an operation is met by `witness_ConfigurationIsConstant_changes`. -/
theorem witness_PhaseMovesAlongTheTables :
    (withRxq .ackWait .rdbuf [6]).noReset ∧ field State.phase (step (withRxq .ackWait .rdbuf [6])) = some .rxLen := by
  refine ⟨by simp [State.noReset, withRxq, at_, opened, State.reset, State.resetOf], by decide⟩

theorem witness_CompletionIsSuccess :
    (withRxq .ackWait .send [6]).Inv ∧ (withRxq .ackWait .send [6]).noReset ∧
      step (withRxq .ackWait .send [6]) = .next (at_ .idle .send) ∧ (withRxq .ackWait .send [6]).phase ≠ .idle := by
  refine ⟨?_, by simp [State.noReset, withRxq, at_, opened, State.reset, State.resetOf], rfl, by decide⟩
  constructor <;> simp [withRxq, at_, opened, State.reset, State.resetOf, Config.default, Memory.wf, Memory.inRange,
    bufCells, State.SequencerOk, Op.acked]

/-- A clean entry of a query needs nothing written (R223, R241); one of SEND needs its two cells. -/
theorem test_clean_entry : opened.CleanEntry .qfill payloadQF ∧ (at_ .idle .send).CleanEntry .send [0xAA, 0x55] :=
  ⟨⟨rfl, rfl, rfl, nofun, rfl, by decide⟩, ⟨rfl, rfl, rfl, nofun, rfl, by decide⟩⟩

theorem witness_payload : (at_ .txHdr .send).PayloadIs [0xAA, 0x55] := ⟨rfl, by decide⟩

theorem witness_AnAttemptSendsTheFrame :
    (at_ .txHdr .send).phase = .txHdr ∧ (at_ .txHdr .send).txReady = true ∧ (at_ .txHdr .send).PayloadIs [0xAA, 0x55] ∧
      (frameOf (at_ .txHdr .send).mode [0xAA, 0x55]).length = 5 ∧ (at_ .txHdr .qfill).PayloadIs payloadQF :=
  ⟨rfl, rfl, witness_payload, rfl, rfl, by decide⟩

/-- V26's first and last answers. -/
theorem witness_RetryLaw :
    (at_ .txHdr .send).phase = .txHdr ∧ (at_ .txHdr .send).txReady = true ∧ (at_ .txHdr .send).opened = true ∧
      (at_ .txHdr .send).op.acked = true ∧ (at_ .txHdr .send).PayloadIs [0xAA, 0x55] ∧ (at_ .txHdr .send).rxq = [] ∧
      (∀ d, (at_ .txHdr .send).cfg.rxDepth = some d → 0 < d) ∧
      (∀ b ∈ [(0x00 : Byte), 0x12], b ≠ (at_ .txHdr .send).cfg.ackCode) := by
  refine ⟨rfl, rfl, rfl, rfl, witness_payload, rfl, ?_, by decide⟩
  simp [at_, opened, State.reset, State.resetOf, Config.default]

theorem witness_FillReplyIsParsedByPosition :
    (withRxq .rxPre .qfill [0x55, 0x66, 0x2A, 0x77, 0x88]).phase = .rxPre ∧
      (withRxq .rxPre .qfill [0x55, 0x66, 0x2A, 0x77, 0x88]).idx = 0 ∧
      (withRxq .rxPre .qfill [0x55, 0x66, 0x2A, 0x77, 0x88]).rxq = encode (.fillReply 0x55 0x66 0x2A 0x77 0x88) ++ [] := by
  decide

/-- V41 and V40. -/
theorem witness_BufferReplyIsParsedByPosition :
    (withRxq .rxLen .rdbuf [0x00, 0x7F]).phase = .rxLen ∧ ([] : List Byte).length ≤ 255 ∧
      (withRxq .rxLen .rdbuf [0x00, 0x7F]).rxq = encode (.bufferReply [] 0x7F) ++ [] ∧
      (withRxq .rxLen .rdbuf [0x03, 0xAA, 0xBB, 0xCC, 0x00]).rxq = encode (.bufferReply [0xAA, 0xBB, 0xCC] 0x00) ++ [] := by
  decide

theorem witness_WithoutAckTheOperationNeverEnds :
    (at_ .ackWait .send).Unacknowledged ∧ ({ withRxq .ackWait .send [0x15] with inputs := [.device 7] } : State).NoAckComes ∧
      Sys2Proof.core.run 3 (at_ .ackWait .send) = .next (at_ .ackWait .send) := by
  refine ⟨⟨rfl, rfl⟩, ⟨by decide, ?_⟩, rfl⟩
  simp [withRxq, at_, opened, State.reset, State.resetOf, Config.default]

end Sys2Proof.Tests
end

namespace Sys2Proof.Machine

section EngineStep
/-! What one step of the engine does to each part of the state, said once over `Transition`. -/

variable {s t : State}

/-- The host's own cells are never the engine's to write (R29, R30, R33). -/
theorem Transition.keeps_hostCells (h : Transition s t) : t.len = s.len ∧ t.baud = s.baud ∧ t.pbuf = s.pbuf := by
  cases h <;> simp

/-- An emission step hands one byte to the transport, in the log and in the transmit buffer; no other step does. -/
theorem Transition.sends (h : Transition s t) :
    (t.txlog = s.txlog ∧ t.txbuf = s.txbuf) ∨
    ∃ b, t.txlog = s.txlog ++ [b] ∧ t.txbuf = s.txbuf ++ [b] ∧ s.txReady = true ∧ s.phase.emits = true := by
  cases h with
  | txHdr hp hr | txLen hp hr | txPay _ hp hr | txSum hp hr =>
    exact .inr ⟨_, rfl, rfl, hr, by rw [hp]; rfl⟩
  | _ => exact .inl (by simp)

/-- A step that consumes a byte takes the oldest, outside IDLE and the emission phases. -/
theorem Transition.consumes (h : Transition s t) :
    t.rxq = s.rxq ∨ ∃ b, s.rxq = b :: t.rxq ∧ s.phase ≠ .idle ∧ s.phase.emits = false := by
  cases h with
  | ack _ hp hq => exact .inr ⟨_, by simpa using hq, by simp [hp, Phase.emits]⟩
  | nak _ _ hp hq | rxPre _ _ hp hq | rxFill _ _ hp hq | rxPost _ _ hp hq | rxLen _ _ hp hq
  | rxData _ _ hp hq | rxTrail _ _ hp hq =>
    exact .inr ⟨_, hq, by simp [hp, Phase.emits]⟩
  | _ => exact .inl (by simp)

/-- RX_DATA alone writes RBUF, at IDX, with the oldest byte (R179). -/
theorem Transition.rbuf_cases (h : Transition s t) :
    t.rbuf = s.rbuf ∨
    ∃ b, s.phase = .rxData ∧ s.rxq.head? = some b ∧ s.idx.toNat < bufCells ∧ t.rbuf = s.rbuf.write s.idx.toNat b := by
  cases h with
  | rxData b _ hp hq hi => exact .inr ⟨b, hp, by simp [hq], hi, rfl⟩
  | _ => exact .inl (by simp)

/-- RX_FILL alone writes FILL, with the oldest byte (R175). -/
theorem Transition.fill_cases (h : Transition s t) :
    t.fill = s.fill ∨ s.phase = .rxFill ∧ s.rxq.head? = some t.fill := by
  cases h with
  | rxFill b _ hp hq => exact .inr ⟨hp, by simp [hq]⟩
  | _ => exact .inl (by simp)

/-- RX_LEN alone writes RCOUNT, with the oldest byte (R178). -/
theorem Transition.rcount_cases (h : Transition s t) :
    t.rcount = s.rcount ∨ s.phase = .rxLen ∧ s.rxq.head? = some t.rcount := by
  cases h with
  | rxLen b _ hp hq => exact .inr ⟨hp, by simp [hq]⟩
  | _ => exact .inl (by simp)

theorem State.acknowledged_phase_mem_edges (s : State) : s.acknowledged.phase ∈ Phase.ackWait.edges := by
  rw [State.acknowledged_phase]
  cases s.op <;> decide

/-- The engine moves along the two transition tables (R160, R183). -/
theorem Transition.phase_mem_edges (h : Transition s t) : t.phase ∈ s.phase.edges := by
  cases h with
  | same => cases s.phase <;> decide
  | ack _ hp => rw [hp]; exact State.acknowledged_phase_mem_edges _
  | nak _ _ hp | timeout hp | rxFill _ _ hp | rxTrail _ _ hp => simp [hp, Phase.edges]
  | txHdr hp | txLen hp | txPay _ hp | txSum hp | rxPre _ _ hp | rxPost _ _ hp | rxLen _ _ hp | rxData _ _ hp =>
    simp only [hp, Phase.edges]; split_ifs <;> simp

end EngineStep

section SequencerAndTimer
/-! The parts of the machine invariant that turn on PHASE. -/

variable {s t : State}

theorem State.payloadLen_le (s : State) : s.payloadLen ≤ 255 := by
  have := (s.op.source.len s).isLt
  simp only [State.payloadLen]; omega

/-- A byte below its largest value counts on without wrapping (R156). -/
theorem succ_toNat_of_lt {i : Byte} (h : i.toNat < 255) : (i + 1).toNat = i.toNat + 1 := by
  simp; omega

/-- IDX, counting towards a byte and not there yet, is still below it after one more. -/
theorem succ_toNat_lt {i : Byte} {n : Nat} (hn : n ≤ 255) (h : i.toNat < n) (hne : i.toNat + 1 ≠ n) :
    (i + 1).toNat < n := by
  rw [succ_toNat_of_lt (Nat.lt_of_lt_of_le h hn)]
  exact Nat.lt_of_le_of_ne h hne

/-- After the header, or the length byte, the first payload byte is next if there is one. -/
theorem State.sequencerOk_of_payload (hi : s.idx = 0)
    (hp : s.phase = if 0 < s.payloadLen then .txPay else .txSum) : s.SequencerOk := by
  split_ifs at hp with hl <;> simp [State.SequencerOk, hp, hi, hl]

/-- Every way out of the retry loop enters a phase of its operation (R148). -/
theorem State.acknowledged_sequencerOk (s : State) : s.acknowledged.SequencerOk := by
  cases hop : s.op <;> simp [State.SequencerOk, State.acknowledged_phase, State.acknowledged_idx, hop]

/-- PHASE, OP and IDX go on agreeing, one case for each row of the tables (R160, R183). -/
theorem Transition.keeps_sequencer (h : Transition s t) (hs : s.SequencerOk) : t.SequencerOk := by
  cases h with
  | same => exact hs
  | txHdr =>
    by_cases hm : s.mode = .A
    · rw [if_pos hm]; exact ⟨hm, rfl⟩
    · rw [if_neg hm]; exact State.sequencerOk_of_payload rfl rfl
  | txLen hp =>
    simp only [State.SequencerOk, hp] at hs
    exact State.sequencerOk_of_payload hs.2 rfl
  | txPay b hp =>
    simp only [State.SequencerOk, hp] at hs
    by_cases hl : s.idx.toNat + 1 = s.payloadLen
    · rw [if_pos hl]; trivial
    · rw [if_neg hl]
      show (s.idx + 1).toNat < s.payloadLen
      exact succ_toNat_lt s.payloadLen_le hs hl
  | txSum =>
    by_cases ha : s.op.acked = true
    · simp only [if_pos ha]; exact ha
    · simp only [if_neg ha]; trivial
  | ack rest hp hq => exact State.acknowledged_sequencerOk _
  | nak | timeout => trivial
  | rxPre b rest hp =>
    simp only [State.SequencerOk, hp] at hs
    obtain ⟨hop, hi⟩ := hs
    by_cases h2 : s.idx.toNat + 1 = 2
    · rw [if_pos h2]; exact hop
    · rw [if_neg h2]; exact ⟨hop, succ_toNat_lt (by decide) hi h2⟩
  | rxFill b rest hp =>
    simp only [State.SequencerOk, hp] at hs
    exact ⟨hs, Nat.zero_lt_two⟩
  | rxPost b rest hp =>
    simp only [State.SequencerOk, hp] at hs
    obtain ⟨hop, hi⟩ := hs
    by_cases h2 : s.idx.toNat + 1 = 2
    · rw [if_pos h2]; trivial
    · rw [if_neg h2]; exact ⟨hop, succ_toNat_lt (by decide) hi h2⟩
  | rxLen b rest hp =>
    simp only [State.SequencerOk, hp] at hs
    by_cases hb : 0 < b.toNat
    · rw [if_pos hb]; exact ⟨hs, hb⟩
    · rw [if_neg hb]; exact hs
  | rxData b rest hp =>
    simp only [State.SequencerOk, hp] at hs
    obtain ⟨hop, hi⟩ := hs
    by_cases hl : s.idx.toNat + 1 = s.rcount.toNat
    · rw [if_pos hl]; exact hop
    · rw [if_neg hl]; exact ⟨hop, succ_toNat_lt (Nat.le_of_lt_succ s.rcount.isLt) hi hl⟩
  | rxTrail => trivial

/-- The timer runs in ACK_WAIT of the bounded variant alone (R204). -/
def State.TimerUsed (s : State) : Prop := s.timer = .running → s.cfg.boundedWait = true ∧ s.phase = .ackWait

/-- Waiting with RXQ empty, the bounded variant has the timer going (R204). -/
def State.TimerGoing (s : State) : Prop :=
  s.cfg.boundedWait = true → s.phase = .ackWait → s.rxq = [] → s.timer = .running

theorem State.TimerUsed.stopped (h : s.TimerUsed) (hp : s.phase ≠ .ackWait) : s.timer = .stopped := by
  cases ht : s.timer with
  | stopped => rfl
  | running => exact absurd (h ht).2 hp

/-- Outside ACK_WAIT the timer need only be stopped. -/
theorem State.timer_ok_of_stopped (ht : s.timer = .stopped) (hp : s.phase ≠ .ackWait) :
    s.TimerUsed ∧ s.TimerGoing :=
  ⟨fun hr => by simp [ht] at hr, fun _ h => absurd h hp⟩

theorem State.acknowledged_phase_ne_ackWait (s : State) : s.acknowledged.phase ≠ .ackWait := by
  rw [State.acknowledged_phase]
  cases s.op <;> decide

/-- The timer starts on entry into ACK_WAIT and stops on leaving it; elsewhere it is stopped and stays so (R204; log
11). -/
theorem Transition.keeps_timer (h : Transition s t) (hu : s.TimerUsed) (hg : s.TimerGoing) :
    t.TimerUsed ∧ t.TimerGoing := by
  cases h with
  | same => exact ⟨hu, hg⟩
  | txSum hp =>
    by_cases ha : s.op.acked = true
    · simp only [if_pos ha]
      exact ⟨fun hr => ⟨by simpa using hr, rfl⟩, fun hb _ _ => if_pos hb⟩
    · simp only [if_neg ha]
      exact State.timer_ok_of_stopped (hu.stopped (by simp [hp])) nofun
  | ack => exact State.timer_ok_of_stopped (State.acknowledged_timer _) (State.acknowledged_phase_ne_ackWait _)
  | nak | timeout => exact State.timer_ok_of_stopped rfl nofun
  | rxFill _ _ hp | rxTrail _ _ hp => exact State.timer_ok_of_stopped (hu.stopped (by simp [hp])) nofun
  | txHdr hp | txLen hp | txPay _ hp | rxPre _ _ hp | rxPost _ _ hp | rxLen _ _ hp | rxData _ _ hp =>
    refine State.timer_ok_of_stopped (hu.stopped (by simp [hp])) ?_
    dsimp only
    split_ifs <;> nofun

end SequencerAndTimer

section MachineInvariant

variable {s t : State}

/-- A step the engine can take at all, other than to hold, is of an operation in progress. -/
theorem Transition.eq_or_busy (h : Transition s t) : t = s ∨ s.phase ≠ .idle := by
  obtain ⟨-, -, -, -, -, hidle⟩ := h.keeps
  exact or_iff_not_imp_right.2 fun hp => hidle (not_not.1 hp)

/-- The engine's step keeps the machine invariant. -/
theorem Transition.keeps_inv (h : Transition s t) (hs : s.Inv) : t.Inv := by
  rcases h.eq_or_busy with rfl | hbusy
  · exact hs
  obtain ⟨hcfg, hcompact, hopened, hline, -, -⟩ := h.keeps
  obtain ⟨-, hbaud, hpbuf⟩ := h.keeps_hostCells
  have hopen : t.opened = true := hopened.trans (hs.busy_opened hbusy)
  obtain ⟨htu, htg⟩ := h.keeps_timer hs.timer_used hs.timer_going
  exact {
    pbuf_wf := hpbuf ▸ hs.pbuf_wf
    pbuf_inRange := hpbuf ▸ hs.pbuf_inRange
    rbuf_wf := by
      rcases h.rbuf_cases with e | ⟨b, -, -, -, e⟩ <;> rw [e]
      · exact hs.rbuf_wf
      · exact Memory.wf_write _ _ _ hs.rbuf_wf
    rbuf_inRange := by
      rcases h.rbuf_cases with e | ⟨b, -, -, hi, e⟩ <;> rw [e]
      · exact hs.rbuf_inRange
      · exact Memory.inRange_write _ _ _ hs.rbuf_inRange hi
    baud_fits := by rw [hbaud, hcfg]; exact hs.baud_fits
    compact_strap := by rw [hcompact, hcfg]; exact hs.compact_strap
    opened_line := by rw [hopened, hline]; exact hs.opened_line
    busy_opened := fun _ => hopen
    closed_rx := fun hc => by simp [hopen] at hc
    closed_tx := fun hc => by simp [hopen] at hc
    rx_fits := fun d hd => by
      have hle := hs.rx_fits d (hcfg ▸ hd)
      rcases h.consumes with e | ⟨b, e, -⟩
      · rwa [e]
      · rw [e] at hle; exact Nat.le_of_succ_le hle
    txbuf_suffix := by
      rcases h.sends with ⟨hl, hb⟩ | ⟨b, hl, hb, -⟩ <;> rw [hl, hb]
      · exact hs.txbuf_suffix
      · exact List.suffix_append_self_iff.2 hs.txbuf_suffix
    sequencer := h.keeps_sequencer hs.sequencer
    timer_used := htu
    timer_going := htg }

/-- What the next input is plays no part in the invariant. -/
theorem State.Inv.withInputs (h : s.Inv) (rest : List Input) : ({ s with inputs := rest } : State).Inv := { h with }

theorem State.resetOf_inv (c : Config) : (State.resetOf c).Inv := by
  constructor <;> simp [State.resetOf, Memory.wf_nil, Memory.inRange_nil, State.SequencerOk]

/-- Every agent's step keeps the machine invariant. -/
theorem AgentTransition.keeps_inv {inp : Option Input} (h : AgentTransition s inp t) (hs : s.Inv) : t.Inv := by
  cases h with
  | engine _ _ _ he => exact he.keeps_inv hs
  | ignored => exact hs
  | issue o hp ho =>
    have hstop : s.timer = .stopped := State.TimerUsed.stopped hs.timer_used (by simp [hp])
    have ht : (s.issue o).TimerUsed ∧ (s.issue o).TimerGoing := State.timer_ok_of_stopped hstop nofun
    exact { hs with
      busy_opened := fun _ => ho
      sequencer := trivial
      timer_used := ht.1
      timer_going := ht.2 }
  | openLine hp =>
    exact { hs with
      opened_line := rfl
      busy_opened := fun _ => rfl
      closed_rx := nofun
      closed_tx := nofun }
  | read | txReady => exact { hs with }
  | writeLen _ _ _ hp => exact { hs with sequencer := by simp [State.SequencerOk, hp] }
  | writeBaud _ v _ hv => exact { hs with baud_fits := hv }
  | writePbuf _ _ _ _ hp hi =>
    exact { hs with
      pbuf_wf := Memory.wf_write _ _ _ hs.pbuf_wf
      pbuf_inRange := Memory.inRange_write _ _ _ hs.pbuf_inRange hi
      sequencer := by simp [State.SequencerOk, hp] }
  | device v ho hf =>
    exact { hs with
      closed_rx := fun hc => by simp [ho] at hc
      rx_fits := fun d hd => by simpa using (s.rxFull_eq_false_iff.1 hf d hd)
      timer_used := nofun
      timer_going := fun _ _ hq => by simp at hq }
  | txDrain => exact { hs with txbuf_suffix := (List.tail_suffix _).trans hs.txbuf_suffix }
  | reset => exact { State.resetOf_inv s.cfg with }

end MachineInvariant
end Sys2Proof.Machine

section
open Sys2Proof Sys2Proof.Machine

/-- Settles O45, by cases over what each agent's step can do. -/
theorem everyStepKeepsTheInvariant : Obligations.EveryStepKeepsTheInvariant := by
  intro s t hs h
  obtain ⟨rest, -, ht⟩ := transition_of_step h
  exact ht.keeps_inv (hs.withInputs rest)

end

namespace Sys2Proof.Machine

section AttemptInvariant
/-! The bytes of the current attempt: each emission step adds the byte it sends to them, to TXLOG and to CSUM. -/

variable {s t : State}

/-- The bytes `p` are the newest of TXLOG, and CSUM is their sum (R39, R157). -/
def State.HasSent (s : State) (p : List Byte) : Prop := p <:+ s.txlog ∧ s.csum = checksum p

/-- The header begins the sum anew (R142). -/
theorem State.hasSent_header {b : Byte} (hlog : t.txlog = s.txlog ++ [b]) (hsum : t.csum = b) : t.HasSent [b] :=
  ⟨hlog ▸ List.suffix_append _ _, by rw [hsum, checksum_singleton]⟩

/-- A byte sent goes to the end of the log and into the sum. -/
theorem State.HasSent.snoc {p : List Byte} {b : Byte} (h : s.HasSent p) (hlog : t.txlog = s.txlog ++ [b])
    (hsum : t.csum = s.csum + b) : t.HasSent (p ++ [b]) := by
  obtain ⟨hp, hc⟩ := h
  exact ⟨hlog ▸ List.suffix_append_self_iff.2 hp, by rw [hsum, hc, checksum_append, checksum_singleton]⟩

theorem State.payloadBelow_zero (s : State) : s.payloadBelow 0 = [] := rfl

theorem State.payloadBelow_succ {n : Nat} {b : Byte} (h : s.op.source.byte s n = .ok b) :
    s.payloadBelow (n + 1) = s.payloadBelow n ++ [b] := by
  simp [State.payloadBelow, List.range_succ, h, Except.toOption]

/-- The bytes of a frame before its payload: the header, and in mode A the length byte (R94, R95). -/
def State.preamble (s : State) : List Byte := s.mode.hdr :: if s.mode = .A then [s.op.source.len s] else []

theorem State.preamble_modeA (h : s.mode = .A) : s.preamble = [s.mode.hdr] ++ [s.op.source.len s] := by
  simp [State.preamble, h]

theorem State.preamble_not_modeA (h : s.mode ≠ .A) : s.preamble = [s.mode.hdr] := by
  simp [State.preamble, h]

/-- The length byte is sent by the step that leaves TX_LEN. -/
theorem State.sentSoFar_of_ne_txLen (h : s.phase ≠ .txLen) :
    s.sentSoFar = s.preamble ++ s.payloadBelow s.idx.toNat := by
  simp [State.sentSoFar, State.preamble, h]

theorem State.sentSoFar_txLen (h : s.phase = .txLen) (hi : s.idx = 0) : s.sentSoFar = [s.mode.hdr] := by
  simp [State.sentSoFar, h, hi, State.payloadBelow_zero]

/-- What TX_PAY and TX_SUM say of IDX (R145, R146). -/
def State.InPayload (s : State) : Prop :=
  (s.phase = .txPay ∧ s.idx.toNat < s.payloadLen) ∨ (s.phase = .txSum ∧ s.idx.toNat = s.payloadLen)

/-- After the header, or the length byte, the first payload byte is next if there is one. -/
theorem State.inPayload_of_idx_zero (hi : s.idx = 0)
    (hp : s.phase = if 0 < s.payloadLen then .txPay else .txSum) : s.InPayload := by
  split_ifs at hp with hl
  · exact .inl ⟨hp, by simpa [hi] using hl⟩
  · exact .inr ⟨hp, by simp [hi]; omega⟩

theorem State.emissionInv_of_inPayload (hp : s.InPayload)
    (hs : s.HasSent (s.preamble ++ s.payloadBelow s.idx.toNat)) : s.EmissionInv := by
  rcases hp with ⟨hp, hi⟩ | ⟨hp, hi⟩ <;>
    simpa only [State.EmissionInv, hp, State.sentSoFar_of_ne_txLen, ne_eq, reduceCtorEq, not_false_eq_true]
      using ⟨hi, hs⟩

theorem State.emissionInv_txLen_iff (hp : s.phase = .txLen) :
    s.EmissionInv ↔ s.mode = .A ∧ s.idx = 0 ∧ s.HasSent [s.mode.hdr] := by
  simp only [State.EmissionInv, hp, State.HasSent]
  refine and_congr_right fun _ => and_congr_right fun hi => ?_
  rw [State.sentSoFar_txLen hp hi]

theorem State.emissionInv_txPay_iff (hp : s.phase = .txPay) :
    s.EmissionInv ↔ s.idx.toNat < s.payloadLen ∧ s.HasSent (s.preamble ++ s.payloadBelow s.idx.toNat) := by
  simp only [State.EmissionInv, hp, State.HasSent]
  rw [State.sentSoFar_of_ne_txLen (by simp [hp])]

/-- Outside the phases within an attempt there is nothing to keep. -/
theorem State.emissionInv_of_phase (h : s.phase ∉ [Phase.txLen, .txPay, .txSum]) : s.EmissionInv := by
  cases hp : s.phase <;> simp [hp, State.EmissionInv] at h ⊢

theorem Phase.not_sending_of_edge (p : Phase) :
    p.emits = false → ∀ q ∈ p.edges, q ∉ [Phase.txLen, .txPay, .txSum] := by
  cases p <;> decide

/-- An attempt is entered by emission alone. -/
theorem Transition.emissionInv_of_not_emits (h : Transition s t) (he : s.phase.emits = false) : t.EmissionInv :=
  State.emissionInv_of_phase (Phase.not_sending_of_edge _ he _ h.phase_mem_edges)

/-- The engine's step keeps the attempt's bytes: the emission steps add the byte they send, and no other step enters
an attempt. -/
theorem Transition.keeps_emissionInv (h : Transition s t) (hs : s.EmissionInv) : t.EmissionInv := by
  have outside : s.phase.emits = false → t.EmissionInv := h.emissionInv_of_not_emits
  cases h with
  | same => exact hs
  | txHdr =>
    by_cases hm : s.mode = .A
    · exact (State.emissionInv_txLen_iff (if_pos hm)).2 ⟨hm, rfl, State.hasSent_header (s := s) rfl rfl⟩
    · rw [if_neg hm]
      refine State.emissionInv_of_inPayload (State.inPayload_of_idx_zero rfl rfl) ?_
      show State.HasSent _ (s.preamble ++ [])
      rw [List.append_nil, State.preamble_not_modeA hm]
      exact State.hasSent_header (s := s) rfl rfl
  | txLen hp =>
    obtain ⟨hm, hi, hsent⟩ := (State.emissionInv_txLen_iff hp).1 hs
    refine State.emissionInv_of_inPayload (State.inPayload_of_idx_zero hi rfl) ?_
    show State.HasSent _ (s.preamble ++ s.payloadBelow s.idx.toNat)
    rw [hi, State.preamble_modeA hm]
    exact hsent.snoc rfl rfl
  | txPay b hp _ hb =>
    obtain ⟨hi, hsent⟩ := (State.emissionInv_txPay_iff hp).1 hs
    have hsucc := succ_toNat_of_lt (Nat.lt_of_lt_of_le hi s.payloadLen_le)
    refine State.emissionInv_of_inPayload ?_ ?_
    · by_cases hl : s.idx.toNat + 1 = s.payloadLen
      · exact .inr ⟨if_pos hl, hsucc.trans hl⟩
      · exact .inl ⟨if_neg hl, succ_toNat_lt s.payloadLen_le hi hl⟩
    · show State.HasSent _ (s.preamble ++ s.payloadBelow (s.idx + 1).toNat)
      rw [hsucc, State.payloadBelow_succ hb, ← List.append_assoc]
      exact hsent.snoc rfl rfl
  | txSum =>
    refine State.emissionInv_of_phase ?_
    dsimp only
    split_ifs <;> decide
  | ack _ hp | nak _ _ hp | timeout hp | rxPre _ _ hp | rxFill _ _ hp | rxPost _ _ hp | rxLen _ _ hp | rxData _ _ hp
  | rxTrail _ _ hp => exact outside (by rw [hp]; rfl)

/-- Every agent's step keeps the attempt's bytes: the host can change what the frame is made of only while no attempt
runs. -/
theorem AgentTransition.keeps_emissionInv {inp : Option Input} (h : AgentTransition s inp t) (hs : s.EmissionInv) :
    t.EmissionInv := by
  cases h with
  | engine _ _ _ he => exact he.keeps_emissionInv hs
  | ignored | read | device | txReady | txDrain => exact hs
  | issue | reset => trivial
  | openLine hp | writeLen _ _ _ hp | writeBaud _ _ hp | writePbuf _ _ _ _ hp =>
    exact State.emissionInv_of_phase (by simp [hp])

end AttemptInvariant

end Sys2Proof.Machine

section
open Sys2Proof Sys2Proof.Machine

/-- Settles O46, by cases over what each agent's step can do. -/
theorem everyStepKeepsTheAttempt : Obligations.EveryStepKeepsTheAttempt := by
  intro s t hs h
  obtain ⟨rest, -, ht⟩ := transition_of_step h
  exact ht.keeps_emissionInv hs

end

namespace Sys2Proof.Machine

section AgentFrames
/-! What a step of any agent but reset does to each part of the state, said once over `AgentTransition`. -/

variable {s t : State} {inp : Option Input}

theorem AgentTransition.cfg_eq (h : AgentTransition s inp t) : t.cfg = s.cfg := by
  cases h with
  | engine _ _ _ he => exact he.keeps.1
  | _ => rfl

theorem AgentTransition.compact_eq (h : AgentTransition s inp t) (hr : inp ≠ some .reset) :
    t.compact = s.compact := by
  cases h with
  | engine _ _ _ he =>
    obtain ⟨-, hcompact, -⟩ := he.keeps
    exact hcompact
  | reset => exact absurd rfl hr
  | _ => rfl

/-- Only OPEN changes OPENED and the line's baud value (R34, R121). -/
theorem AgentTransition.line_cases (h : AgentTransition s inp t) (hr : inp ≠ some .reset) :
    (t.opened = s.opened ∧ t.lineBaud = s.lineBaud) ∨
    (s.phase = .idle ∧ s.opened = false ∧ inp = some (.host (.write (.reg 0) 6)) ∧
      t.opened = true ∧ t.lineBaud = some s.baud) := by
  cases h with
  | engine _ _ _ he =>
    obtain ⟨-, -, hopened, hline, -⟩ := he.keeps
    exact .inl ⟨hopened, hline⟩
  | openLine hp ho => exact .inr ⟨hp, ho, rfl, rfl, rfl⟩
  | reset => exact absurd rfl hr
  | _ => exact .inl ⟨rfl, rfl⟩

/-- Only the acceptance of an operation changes OP (R37, R141, R171). -/
theorem AgentTransition.op_cases (h : AgentTransition s inp t) (hr : inp ≠ some .reset) :
    t.op = s.op ∨
    ∃ o : Op, s.phase = .idle ∧ s.opened = true ∧ inp = some (.host (.write (.reg 0) o.cmdByte.toNat)) ∧
      t = s.issue o := by
  cases h with
  | engine _ _ _ he =>
    obtain ⟨-, -, -, -, hop, -⟩ := he.keeps
    exact .inl hop
  | issue o hp ho => exact .inr ⟨o, hp, ho, rfl, rfl⟩
  | reset => exact absurd rfl hr
  | _ => exact .inl rfl

/-- The engine alone writes TXLOG and the results (R31, R32, R40). -/
theorem AgentTransition.engine_or_keeps_results (h : AgentTransition s inp t) (hr : inp ≠ some .reset) :
    Transition s t ∨ (t.txlog = s.txlog ∧ t.fill = s.fill ∧ t.rcount = s.rcount ∧ t.rbuf = s.rbuf) := by
  cases h with
  | engine _ _ _ he => exact .inl he
  | reset => exact absurd rfl hr
  | _ => exact .inr ⟨rfl, rfl, rfl, rfl⟩

/-- Beside the engine only the device touches RXQ (R41, R127). -/
theorem AgentTransition.rxq_cases (h : AgentTransition s inp t) (hr : inp ≠ some .reset) :
    Transition s t ∨ t.rxq = s.rxq ∨ ∃ v, t.rxq = s.rxq ++ [v] ∧ s.opened = true ∧ inp = some (.device v) := by
  cases h with
  | engine _ _ _ he => exact .inl he
  | device v ho => exact .inr (.inr ⟨v, rfl, ho, rfl⟩)
  | reset => exact absurd rfl hr
  | _ => exact .inr (.inl rfl)

/-- Beside the engine only the acceptance of an operation moves PHASE (R27, R36). -/
theorem AgentTransition.phase_cases (h : AgentTransition s inp t) (hr : inp ≠ some .reset) :
    Transition s t ∨ t.phase = s.phase ∨
    ∃ o : Op, s.phase = .idle ∧ s.opened = true ∧ inp = some (.host (.write (.reg 0) o.cmdByte.toNat)) ∧
      t = s.issue o := by
  cases h with
  | engine _ _ _ he => exact .inl he
  | issue o hp ho => exact .inr (.inr ⟨o, hp, ho, rfl, rfl⟩)
  | reset => exact absurd rfl hr
  | _ => exact .inr (.inl rfl)

theorem Phase.mem_edges_self (p : Phase) : p ∈ p.edges := by cases p <;> decide

/-- The opcodes of R91 with the operations they name. -/
theorem Op.cmdByte_mem (o : Op) :
    (o.cmdByte.toNat, o) ∈
      [(0, Op.send), (1, .sendb), (2, .sendna), (3, .sendbna), (4, .qfill), (5, .rdbuf)] := by
  cases o <;> decide

theorem Op.cmdByte_le_five (o : Op) : o.cmdByte.toNat ≤ 5 := by cases o <;> decide

end AgentFrames

end Sys2Proof.Machine

section
open Sys2Proof Sys2Proof.Machine

/-- Settles O49: the parameters and COMPACT stay, the line is OPEN's and OP the accepted command's. -/
theorem configurationIsConstant : Obligations.ConfigurationIsConstant := by
  intro s t h
  obtain ⟨rest, -, ht⟩ := transition_of_step h
  refine ⟨ht.cfg_eq, fun hr => ⟨ht.compact_eq hr, ?_, ?_, ?_, ?_⟩⟩
  · intro hopen
    rcases ht.line_cases hr with ⟨ho, hl⟩ | ⟨-, hclosed, -⟩
    · exact ⟨ho.trans hopen, hl⟩
    · simp [hopen] at hclosed
  · intro hbusy
    rcases ht.op_cases hr with hop | ⟨o, hidle, -⟩
    · exact hop
    · exact absurd hidle hbusy
  · intro hchange
    rcases ht.line_cases hr with ⟨ho, hl⟩ | hopened
    · exact absurd hchange (by simp [ho, hl])
    · exact hopened
  · intro hchange
    rcases ht.op_cases hr with hop | ⟨o, hidle, hopen, hin, rfl⟩
    · exact absurd hop hchange
    · exact ⟨hidle, hopen, rfl, _, hin, o.cmdByte_mem⟩

/-- Settles O51: the engine alone writes the results, each in its own phase. -/
theorem resultsAreWrittenByTheirStepsAlone : Obligations.ResultsAreWrittenByTheirStepsAlone := by
  intro s t hr h
  obtain ⟨rest, -, ht⟩ := transition_of_step h
  rcases ht.engine_or_keeps_results hr with he | ⟨-, hfill, hcount, hrbuf⟩
  · refine ⟨he.fill_cases.resolve_left, he.rcount_cases.resolve_left, fun a ha => ?_⟩
    rcases he.rbuf_cases with hrbuf | ⟨b, hp, hq, -, hrbuf⟩
    · exact absurd (congrArg (Memory.read · a) hrbuf) ha
    · rw [hrbuf] at ha ⊢
      have hidx : a = s.idx.toNat := by
        by_contra hne
        exact ha (Memory.read_write_other _ b hne)
      exact ⟨hp, hidx, by rw [hidx, Memory.read_write_same]; exact hq.symm⟩
  · exact ⟨fun hn => absurd hfill hn, fun hn => absurd hcount hn,
      fun a hn => absurd (congrArg (Memory.read · a) hrbuf) hn⟩

/-- Settles O52: the engine alone sends, one byte a step. -/
theorem txlogOnlyGrows : Obligations.TxlogOnlyGrows := by
  intro s t hr h
  obtain ⟨rest, -, ht⟩ := transition_of_step h
  rcases ht.engine_or_keeps_results hr with he | ⟨hlog, -⟩
  · rcases he.sends with ⟨hlog, -⟩ | ⟨b, hlog, -, haccepts, hemits⟩
    · exact .inl hlog
    · exact .inr ⟨b, hlog, haccepts, hemits⟩
  · exact .inl hlog

/-- Settles O53: the engine takes from the head, the device appends at the tail. -/
theorem rxqIsFirstInFirstOut : Obligations.RxqIsFirstInFirstOut := by
  intro s t hr h
  obtain ⟨rest, -, ht⟩ := transition_of_step h
  rcases ht.rxq_cases hr with he | hsame | hdevice
  · exact he.consumes.imp_right .inl
  · exact .inl hsame
  · exact .inr (.inr hdevice)

/-- Settles O54: the engine follows the tables, and idle it starts nothing by itself. -/
theorem phaseMovesAlongTheTables : Obligations.PhaseMovesAlongTheTables := by
  intro s t hr h
  obtain ⟨rest, -, ht⟩ := transition_of_step h
  rcases ht.phase_cases hr with he | hsame | ⟨o, hidle, hopen, hin, rfl⟩
  · refine ⟨he.phase_mem_edges, fun hidle hstart => ?_⟩
    obtain ⟨-, -, -, -, -, hstays⟩ := he.keeps
    simp [hstays hidle, hidle] at hstart
  · refine ⟨?_, fun hidle hstart => ?_⟩
    · rw [hsame]; exact Phase.mem_edges_self _
    · simp [hsame, hidle] at hstart
  · refine ⟨?_, fun _ _ => ⟨hopen, _, o.cmdByte_le_five, hin⟩⟩
    have hp : s.phase = .idle := hidle
    simp [hp, Phase.edges]

end

namespace Sys2Proof.Machine

section Faults
/-! Everything that can make a step fault. -/

variable {s : State} {f : Fault}

/-- Of the emission steps only the payload byte's can fault. -/
theorem emit_fault {m : Mode} {src : Source} (h : emit m src s = .fault f) :
    s.phase = .txPay ∧ src.byte s s.idx.toNat = .error f := by
  rcases emit_cases m src s with e | ⟨hp, hr, -⟩ | ⟨hp, hr, -⟩ | ⟨hp, hr, e⟩ | ⟨hp, hr, -⟩
  · rw [e] at h; cases h
  · rw [emit_txHdr hp hr] at h; cases h
  · rw [emit_txLen hp hr] at h; cases h
  · refine ⟨hp, ?_⟩
    rw [e] at h
    simp only [emitPay, hr, State.whenAccepts_ready] at h
    split at h
    · cases h; assumption
    · cases h
  · rw [emit_txSum hp hr] at h; cases h

theorem awaitAck_ne_fault : awaitAck s ≠ .fault f := by
  cases hq : s.rxq with
  | nil =>
    simp only [awaitAck, State.rxAvail, hq, List.length_nil, Nat.lt_irrefl, if_false, timeoutOrWait]
    split_ifs <;> nofun
  | cons b rest =>
    simp only [awaitAck, State.rxAvail, State.rxPop, hq, List.length_cons, Nat.zero_lt_succ, if_true, judgeAck]
    split_ifs <;> nofun

/-- A guarded step that faults has taken a byte first. -/
theorem State.onByte_fault {k : Byte → State → Result} (h : s.onByte k = .fault f) :
    ∃ b rest, k b { s with rxq := rest } = .fault f := by
  rcases s.onByte_cases k with ⟨-, e⟩ | ⟨b, rest, -, e⟩ <;> rw [e] at h
  · cases h
  · exact ⟨b, rest, h⟩

theorem execFillReply_ne_fault : execFillReply s ≠ .fault f := by
  intro h
  cases hp : s.phase <;> simp only [execFillReply, hp] at h
  case rxPre | rxFill | rxPost =>
    obtain ⟨b, rest, hk⟩ := State.onByte_fault h
    cases hk
  all_goals cases h

/-- Of the reply steps only RX_DATA's can fault, at an index RBUF does not have. -/
theorem execBufferReply_fault (h : execBufferReply s = .fault f) :
    s.phase = .rxData ∧ bufCells ≤ s.idx.toNat ∧ f = .noSuchCell := by
  cases hp : s.phase <;> simp only [execBufferReply, hp] at h
  case rxLen | rxTrail =>
    obtain ⟨b, rest, hk⟩ := State.onByte_fault h
    cases hk
  case rxData =>
    obtain ⟨b, rest, hk⟩ := State.onByte_fault h
    dsimp only at hk
    split_ifs at hk with hi
    cases hk
    exact ⟨rfl, Nat.le_of_not_lt hi, rfl⟩
  all_goals cases h

/-- The engine's step faults on a payload byte that is not there, or past the end of RBUF. -/
theorem engineStep_fault (h : engineStep s = .fault f) :
    (s.phase = .txPay ∧ s.op.source.byte s s.idx.toNat = .error f) ∨
    (s.phase = .rxData ∧ bufCells ≤ s.idx.toNat ∧ f = .noSuchCell) := by
  unfold engineStep at h
  cases hp : s.phase <;> simp only [State.inProgress, hp] at h
  case idle => cases h
  case txHdr | txLen | txPay | txSum =>
    rw [exec_frameInstr] at h
    exact .inl (hp ▸ emit_fault h)
  case ackWait =>
    simp only [exec, execAckByte, hp] at h
    exact absurd h awaitAck_ne_fault
  case rxPre | rxFill | rxPost => exact absurd h execFillReply_ne_fault
  case rxLen | rxData | rxTrail => exact .inr (hp ▸ execBufferReply_fault h)

theorem hostWrite_ne_fault {c : Target} {v : Nat} : hostWrite c v s ≠ .fault f := by
  intro h
  rcases hostWrite_cases c v s with e | e | ⟨-, -, e⟩ | ⟨-, e⟩ | ⟨-, -, e⟩ | ⟨i, -, -, e⟩ <;> rw [e] at h
  case inr.inr.inl =>
    rcases exec_decodeCmd_cases (BitVec.ofNat 8 v) s with e | ⟨o, -, -, -, e⟩ | ⟨-, -, -, e⟩ <;> rw [e] at h <;>
      cases h
  all_goals cases h

/-- Outside the engine, a host read of an unwritten cell and a device byte at a full queue are all that faults. -/
theorem agentStep_fault {inp : Input} (h : agentStep inp s = .fault f) :
    engineStep s = .fault f ∨ f = .unwrittenCell ∨ f = .rxOverflow := by
  cases inp with
  | engine => exact .inl h
  | host op =>
    cases op with
    | read c =>
      change hostRead c s = .fault f at h
      rcases hostRead_cases c s with ⟨v, e⟩ | ⟨v, -, e⟩ | e <;> rw [e] at h <;> cases h
      exact .inr (.inl rfl)
    | write c v => exact absurd h hostWrite_ne_fault
  | device v =>
    change s.deviceAppend v = .fault f at h
    rcases s.deviceAppend_cases v with ⟨-, e⟩ | ⟨-, -, e⟩ | ⟨-, -, e⟩ <;> rw [e] at h <;> cases h
    exact .inr (.inr rfl)
  | txReady | txDrain | reset => cases h

/-- A step that faults is the engine's, whatever comes next, or has one of the two named faults. -/
theorem step_fault (h : step s = .fault f) :
    (∃ rest, engineStep { s with inputs := rest } = .fault f) ∨ f = .unwrittenCell ∨ f = .rxOverflow := by
  rcases step_cases s with ⟨hin, e⟩ | ⟨inp, rest, -, e⟩ <;> rw [e] at h
  · exact .inl ⟨[], by rwa [← hin]⟩
  · exact (agentStep_fault h).imp_left fun he => ⟨rest, he⟩

/-- Below the payload's length every cell exists: a failure is of one nothing has written (R38, R46). -/
theorem Source.byte_error_of_lt {src : Source} {i : Nat} (hi : i < (src.len s).toNat)
    (h : src.byte s i = .error f) : f = .unwrittenCell := by
  have query : ∀ p : List Byte, i < p.length → constByte p i ≠ .error f := fun p hp => by
    simp [constByte, List.getElem?_eq_getElem hp]
  cases src with
  | payload => exact Memory.cell_error (Nat.lt_of_lt_of_le hi (Nat.le_of_lt_succ s.len.isLt)) h
  | queryFill => exact absurd h (query _ hi)
  | queryRead => exact absurd h (query _ hi)

/-- Under the invariant the engine stays within its buffers and constants (R38; log 19). -/
theorem State.Inv.engineStep_fault_eq (hs : s.Inv) (h : engineStep s = .fault f) : f = .unwrittenCell := by
  have hseq := hs.sequencer
  rcases engineStep_fault h with ⟨hp, hb⟩ | ⟨hp, hi, -⟩ <;> simp only [State.SequencerOk, hp] at hseq
  · exact Source.byte_error_of_lt hseq hb
  · have hcount := s.rcount.isLt
    simp only [bufCells] at hi
    omega

end Faults

end Sys2Proof.Machine

section
open Sys2Proof Sys2Proof.Machine

/-- Settles O48: the invariant leaves the engine the unwritten cell alone. -/
theorem onlyTheNamedFaults : Obligations.OnlyTheNamedFaults := by
  intro s f hs h
  rcases step_fault h with ⟨rest, he⟩ | hnamed
  · exact .inl ((hs.withInputs rest).engineStep_fault_eq he)
  · exact hnamed

end

namespace Sys2Proof.Machine

section HostPort
/-! One rule for each thing a host access does, by BUSY and by the cell it names (R25 to R33, R197). -/

variable {s : State}

theorem State.busy_of_phase (h : s.phase ≠ .idle) : s.busy = true := by simp [State.busy, h]

theorem State.returnsResult_busy (v : Except Fault Byte) (h : s.phase ≠ .idle) :
    s.returnsResult v = .next
      { s with readLog := s.readLog ++ [(Config.freeByte s.draws).toNat], draws := s.draws + 1 } := by
  simp [State.returnsResult, State.busy_of_phase h]

theorem State.returnsResult_idle_ok {v : Except Fault Byte} {b : Byte} (h : s.phase = .idle) (hv : v = .ok b) :
    s.returnsResult v = .next { s with readLog := s.readLog ++ [b.toNat] } := by
  simp [State.returnsResult, (State.busy_eq_false_iff s).2 h, hv, State.returns]

theorem State.returnsResult_idle_error {v : Except Fault Byte} {f : Fault} (h : s.phase = .idle) (hv : v = .error f) :
    s.returnsResult v = .fault f := by
  simp [State.returnsResult, (State.busy_eq_false_iff s).2 h, hv]

@[simp] theorem State.unlessBusy_busy (t : State) (h : s.phase ≠ .idle) : s.unlessBusy t = .next s := by
  simp [State.unlessBusy, State.busy_of_phase h]

@[simp] theorem State.unlessBusy_idle (t : State) (h : s.phase = .idle) : s.unlessBusy t = .next t := by
  simp [State.unlessBusy, (State.busy_eq_false_iff s).2 h]

/-- PBUF and RBUF have every cell a byte can name but the last (R60). -/
theorem toNat_lt_bufCells_iff {i : Byte} : i.toNat < bufCells ↔ i ≠ 255 := by
  rw [ne_eq, ← BitVec.toNat_inj]
  have := i.isLt
  simp [bufCells]
  omega

theorem readPbuf_written {i b : Byte} (hi : i ≠ 255) (hb : s.pbuf.read i.toNat = some b) :
    readPbuf i s = s.returns b.toNat := by
  have hlt := toNat_lt_bufCells_iff.2 hi
  rw [readPbuf, if_pos hlt, Memory.cell_of_read hlt hb]

theorem readPbuf_unwritten {i : Byte} (hi : i ≠ 255) (hb : s.pbuf.read i.toNat = none) :
    readPbuf i s = .fault .unwrittenCell := by
  have hlt := toNat_lt_bufCells_iff.2 hi
  rw [readPbuf, if_pos hlt, Memory.cell_unwritten hlt hb]

theorem readRbuf_cell {i : Byte} (hi : i ≠ 255) : readRbuf i s = s.returnsResult (s.rbuf.cell i.toNat) :=
  if_pos (toNat_lt_bufCells_iff.2 hi)

theorem regOf_eq_baud_iff {n : BitVec 4} : regOf n = .baud ↔ n = 5 := by
  revert n; decide

theorem hostWrite_reg {n : BitVec 4} {v : Nat} (hn : n ≠ 5) (hv : v < 256) :
    hostWrite (.reg n) v s = writeReg n v s :=
  if_pos (by rwa [Target.width, if_neg fun h => hn (regOf_eq_baud_iff.1 h)])

theorem hostWrite_baud {v : Nat} (hv : v < 2 ^ s.cfg.baudW) :
    hostWrite (.reg 5) v s = s.unlessBusy { s with baud := v } :=
  if_pos hv

theorem hostWrite_pbuf (i : Byte) {v : Nat} (hv : v < 256) : hostWrite (.pbuf i) v s = writePbuf i v s := if_pos hv

theorem hostWrite_rbuf (i : Byte) {v : Nat} (hv : v < 256) : hostWrite (.rbuf i) v s = .next s := if_pos hv

/-- Data wider than its cell is refused (log 15). -/
theorem hostWrite_tooWide {c : Target} {v : Nat} (hv : 2 ^ c.width s.cfg ≤ v) :
    hostWrite c v s = .refused .dataTooWide :=
  if_neg (Nat.not_lt.2 hv)

theorem writeReg_reserved {n : BitVec 4} (v : Nat) (hn : 6 ≤ n.toNat) : writeReg n v s = .next s := by
  rw [writeReg, regOf_reserved hn]

theorem writePbuf_cell {i : Byte} (v : Nat) (hi : i ≠ 255) :
    writePbuf i v s = s.unlessBusy { s with pbuf := s.pbuf.write i.toNat (BitVec.ofNat 8 v) } :=
  if_pos (toNat_lt_bufCells_iff.2 hi)

theorem writePbuf_255 (v : Nat) : writePbuf 255 v s = .next s := rfl

end HostPort

section OtherAgents
/-! The engine's turn by what is in progress, its faults in TX_PAY, and the device's byte by OPENED and room. -/

variable {s : State}

theorem engineStep_of_inProgress {i : Instr} (h : s.inProgress = some i) : engineStep s = exec i s := by
  simp [engineStep, h]

theorem engineStep_idle (h : s.phase = .idle) : engineStep s = .next s := by
  simp [engineStep, State.inProgress, h]

theorem emit_txPay_error {m : Mode} {src : Source} {f : Fault} (hp : s.phase = .txPay) (hr : s.txReady = true)
    (hf : src.byte s s.idx.toNat = .error f) : emit m src s = .fault f := by
  simp only [emit, hp, emitPay, State.whenAccepts_ready _ hr, hf]

theorem Memory.cell_noSuchCell {m : Memory} {i : Nat} (h : bufCells ≤ i) : m.cell i = .error .noSuchCell :=
  if_neg (Nat.not_lt.2 h)

theorem constByte_noSuchCell {p : List Byte} {i : Nat} (h : p.length ≤ i) : constByte p i = .error .noSuchCell := by
  simp [constByte, List.getElem?_eq_none h]

theorem State.deviceAppend_closed (v : Byte) (h : s.opened = false) : s.deviceAppend v = .next s := by
  simp [State.deviceAppend, h]

theorem State.deviceAppend_room (v : Byte) (h : s.opened = true) (hr : s.rxFull = false) :
    s.deviceAppend v = .next { s with rxq := s.rxq ++ [v], timer := .stopped } := by
  simp [State.deviceAppend, h, hr]

theorem State.deviceAppend_full (v : Byte) (h : s.opened = true) (hr : s.rxFull = true) :
    s.deviceAppend v = .fault .rxOverflow := by
  simp [State.deviceAppend, h, hr]

theorem State.rxFull_of_le {d : Nat} (hd : s.cfg.rxDepth = some d) (hle : d ≤ s.rxq.length) : s.rxFull = true := by
  simp [State.rxFull, hd, hle]

/-- Three flags in the low bits of a byte, bit by bit (R28). -/
theorem flags_getLsbD (b o c : Bool) :
    let w := BitVec.ofNat 8 (bitOf b + 2 * bitOf o + 4 * bitOf c)
    w.getLsbD 0 = b ∧ w.getLsbD 1 = o ∧ w.getLsbD 2 = c ∧ ∀ i, 3 ≤ i → w.getLsbD i = false := by
  refine ⟨?_, ?_, ?_, fun i hi => ?_⟩
  · revert b o c; decide
  · revert b o c; decide
  · revert b o c; decide
  · have hlt : bitOf b + 2 * bitOf o + 4 * bitOf c < 2 ^ 3 := by revert b o c; decide
    rw [BitVec.getLsbD_ofNat, Nat.testBit_lt_two_pow (Nat.lt_of_lt_of_le hlt (Nat.pow_le_pow_right Nat.two_pos hi)),
      Bool.and_false]

end OtherAgents

end Sys2Proof.Machine

section
open Sys2Proof Sys2Proof.Machine

/-- Settles O34: a read that answers has returned one value, drawn free only while BUSY = 1. -/
theorem hostReadsChangeNothing : Obligations.HostReadsChangeNothing := by
  intro s t c h
  change hostRead c s = .next t at h
  rcases hostRead_cases c s with ⟨v, e⟩ | ⟨v, hb, e⟩ | e <;> rw [e] at h <;> cases h
  · exact ⟨v, rfl, fun _ => rfl⟩
  · exact ⟨v, rfl, fun hidle => by simp [hb] at hidle⟩

/-- Settles O6: the first input's agent steps, and the engine where there is none. -/
theorem stepRunsTheFetchedInstruction : Obligations.StepRunsTheFetchedInstruction := by
  intro s rest
  refine ⟨fun op hin => step_cons hin, fun b hin => ?_, fun i hi => ⟨fun hin => ?_, fun hin => ?_⟩,
    fun hp => ⟨fun hin => ?_, fun hin => ?_⟩⟩
  · have hcmd : writeReg 0 b.toNat { s with inputs := rest } = exec (decodeCmd b) { s with inputs := rest } := by
      simp [writeReg]
    exact (step_cons hin).trans ((hostWrite_reg (by decide) b.isLt).trans hcmd)
  · exact (step_engine hin).trans (engineStep_of_inProgress hi)
  · exact (step_nil hin).trans (engineStep_of_inProgress hi)
  · exact (step_engine hin).trans (engineStep_idle hp)
  · exact (step_nil hin).trans (engineStep_idle hp)

/-- Settles O17: the TX_PAY step fails as its payload byte does. -/
theorem unwrittenPayloadCellFaults : Obligations.UnwrittenPayloadCellFaults := by
  intro s hp hr
  refine ⟨fun hi hnone => ?_, fun hi => ?_, fun hi => ?_⟩
  · have hcell : Source.payload.byte s s.idx.toNat = .error .unwrittenCell := Memory.cell_unwritten hi hnone
    exact ⟨emit_txPay_error hp hr hcell, emit_txPay_error hp hr hcell⟩
  · have hcell : Source.payload.byte s s.idx.toNat = .error .noSuchCell :=
      Memory.cell_noSuchCell (by rw [hi]; decide)
    exact ⟨emit_txPay_error hp hr hcell, emit_txPay_error hp hr hcell⟩
  · exact ⟨emit_txPay_error hp hr (src := .queryFill) (constByte_noSuchCell hi),
      emit_txPay_error hp hr (src := .queryRead) (constByte_noSuchCell hi)⟩

/-- Settles O35: each register by name; FILL and RCOUNT are results. -/
theorem registerReads : Obligations.RegisterReads := by
  intro s
  refine ⟨rfl, rfl, rfl, rfl, fun n hn => ?_, fun hp => ⟨?_, ?_⟩⟩
  · show readReg n s = _
    rw [readReg, regOf_reserved hn]
    rfl
  · exact State.returnsResult_idle_ok hp rfl
  · exact State.returnsResult_idle_ok hp rfl

/-- Settles O36: STATUS is its three flags. -/
theorem statusBits : Obligations.StatusBits := by
  intro s
  obtain ⟨hbusy, hopened, hcompact, hhigh⟩ := flags_getLsbD s.busy s.opened s.compact
  refine ⟨?_, hopened, hcompact, hhigh⟩
  rw [State.status, hbusy, ← Bool.not_eq_false, State.busy_eq_false_iff]

/-- Settles O37: index 255 reads 0, any other as its cell does. -/
theorem bufferReads : Obligations.BufferReads := by
  intro s i
  refine ⟨fun hi => ?_, fun hi => ⟨fun b hb => ?_, fun hb => ?_, fun hp => ⟨fun b hb => ?_, fun hb => ?_⟩⟩⟩
  · rw [hi]; exact ⟨rfl, rfl⟩
  · exact readPbuf_written hi hb
  · exact readPbuf_unwritten hi hb
  · exact (readRbuf_cell hi).trans
      (State.returnsResult_idle_ok hp (Memory.cell_of_read (toNat_lt_bufCells_iff.2 hi) hb))
  · exact (readRbuf_cell hi).trans
      (State.returnsResult_idle_error hp (Memory.cell_unwritten (toNat_lt_bufCells_iff.2 hi) hb))

/-- Settles O38: the three results are read through one rule. -/
theorem busyResultReadsAreFree : Obligations.BusyResultReadsAreFree := by
  intro s c hp hc
  rcases hc with rfl | rfl | ⟨i, hi, rfl⟩
  · exact State.returnsResult_busy (.ok s.fill) hp
  · exact State.returnsResult_busy (.ok s.rcount) hp
  · exact (readRbuf_cell hi).trans (State.returnsResult_busy _ hp)

/-- Settles O39: idle, each write goes to its cell. -/
theorem idleHostWritesStore : Obligations.IdleHostWritesStore := by
  intro s v hp
  refine ⟨fun hv => ?_, fun hv => ?_, fun i hi hv => ⟨s.pbuf.write i.toNat (BitVec.ofNat 8 v), ?_,
    Memory.read_write_same _ _ _, fun a ha => Memory.read_write_other _ _ ha⟩⟩
  · exact (hostWrite_reg (by decide) hv).trans (State.unlessBusy_idle _ hp)
  · exact (hostWrite_baud hv).trans (State.unlessBusy_idle _ hp)
  · exact (hostWrite_pbuf i hv).trans ((writePbuf_cell v hi).trans (State.unlessBusy_idle _ hp))

/-- Settles O40: by BUSY, by the cell named, and by the data's width. -/
theorem ignoredHostWrites : Obligations.IgnoredHostWrites := by
  intro s v
  refine ⟨fun hp => ⟨fun hv => ?_, fun hv => ?_, fun hv i => ?_⟩, fun hv => ⟨fun n hn => ?_, fun i => ?_, ?_⟩,
    fun c hc => ?_⟩
  · exact (hostWrite_reg (by decide) hv).trans (State.unlessBusy_busy _ hp)
  · exact (hostWrite_baud hv).trans (State.unlessBusy_busy _ hp)
  · refine (hostWrite_pbuf i hv).trans ?_
    by_cases hi : i = 255
    · rw [hi, writePbuf_255]
    · exact (writePbuf_cell v hi).trans (State.unlessBusy_busy _ hp)
  · rcases hn with rfl | rfl | rfl | hn
    · exact hostWrite_reg (by decide) hv
    · exact hostWrite_reg (by decide) hv
    · exact hostWrite_reg (by decide) hv
    · exact (hostWrite_reg (by rintro rfl; simp at hn) hv).trans (writeReg_reserved v hn)
  · exact hostWrite_rbuf i hv
  · exact (hostWrite_pbuf 255 hv).trans (writePbuf_255 v)
  · exact hostWrite_tooWide hc

/-- Settles O41: closed, with room, and full. -/
theorem deviceAppends : Obligations.DeviceAppends := by
  intro s v rest hin
  rw [step_cons hin]
  refine ⟨fun ho => ?_, fun ho hroom => ?_, fun ho d hd hle => ?_⟩
  · exact State.deviceAppend_closed v ho
  · exact State.deviceAppend_room v ho ((State.rxFull_eq_false_iff _).2 hroom)
  · exact State.deviceAppend_full v ho (State.rxFull_of_le hd hle)

/-- Settles O44: no attempt is under way at reset. -/
theorem resetMeetsTheInvariant : Obligations.ResetMeetsTheInvariant :=
  fun c => ⟨State.resetOf_inv c, trivial⟩

end

namespace Sys2Proof.Laws.CommandByte

/-- Every row of the table, from the rows one by one. -/
theorem statement (i : Instr) : Statement i := by
  cases i with
  | send => exact send
  | sendb => exact sendb
  | sendna => exact sendna
  | sendbna => exact sendbna
  | qfill => exact qfill
  | rdbuf => exact rdbuf
  | openLine => exact openLine
  | reservedOpcode7 => exact reservedOpcode7
  | reservedBits hi opc => exact reservedBits hi opc
  | frameA => exact frameA
  | frameB => exact frameB
  | queryFillFrame => exact queryFillFrame
  | queryReadFrame => exact queryReadFrame
  | ackByte => exact ackByte
  | fillReply => exact fillReply
  | bufferReply => exact bufferReply

end Sys2Proof.Laws.CommandByte

namespace Sys2Proof

section CommandBytes
/-! The command byte and its row (R90 to R93), both ways. -/

theorem decodeCmd_of_encodeCmd {i : Instr} {b : Byte} (hw : i.wellFormed = true) (h : encodeCmd i = some b) :
    decodeCmd b = i := by
  cases hc : i.isCommand with
  | true =>
    obtain ⟨b', hb', hd⟩ := (Laws.CommandByte.statement i).1 hc hw
    rw [h] at hb'
    cases hb'
    exact hd
  | false => simp [(Laws.CommandByte.statement i).2 hc] at h

theorem encodeCmd_decodeCmd (b : Byte) : encodeCmd (decodeCmd b) = some b := by revert b; decide

theorem decodeCmd_wellFormed (b : Byte) : (decodeCmd b).wellFormed = true := by
  unfold decodeCmd
  split_ifs with h
  · simpa [Instr.wellFormed] using h
  · split <;> rfl

end CommandBytes

section Decoders
/-! What each decoder accepts, said once as an equivalence: one direction serves decode of encode, the other encode of
decode. -/

variable {m : Message} {bytes body front p : List Byte}

theorem splitLast_eq_some_iff {c : Byte} : splitLast body = some (p, c) ↔ body = p ++ [c] :=
  ⟨eq_append_of_splitLast, fun h => h ▸ splitLast_append p c⟩

theorem checkedBody_eq_ok_iff : checkedBody front body = .ok p ↔ body = p ++ [checksum (front ++ p)] := by
  refine ⟨eq_append_of_checkedBody, ?_⟩
  rintro rfl
  simp [checkedBody]

/-- A byte is the count of as many things as it says. -/
theorem countByte_eq_of_toNat {n : Nat} {b : Byte} (h : n = b.toNat) : countByte n = b := by
  simp [countByte, h]

/-- A count byte before a body one byte longer, and the last byte apart (R94, R102). -/
theorem length_eq_count_add_one_iff {l c : Byte} :
    (p ++ [c]).length = l.toNat + 1 ↔ p.length ≤ 255 ∧ l = countByte p.length := by
  rw [List.length_append, List.length_singleton, Nat.add_right_cancel_iff]
  refine ⟨fun h => ⟨?_, (countByte_eq_of_toNat h).symm⟩, ?_⟩
  · have := l.isLt
    omega
  · rintro ⟨hlen, rfl⟩
    exact (countByte_toNat hlen).symm

/-- A payload that passed the check, made into a message. -/
theorem checkedBody_map_eq_ok_iff {f : List Byte → Message} :
    (checkedBody front body).map f = .ok m ↔ ∃ p, body = p ++ [checksum (front ++ p)] ∧ m = f p := by
  simp only [← checkedBody_eq_ok_iff]
  cases checkedBody front body with
  | error r => simp [Except.map]
  | ok p => simp [Except.map, eq_comm]

theorem decodeFrameA_eq_ok_iff :
    decodeFrameA body = .ok m ↔ ∃ p, p.length ≤ 255 ∧ hdrA :: body = encode (.frameA p) ∧ m = .frameA p := by
  cases body with
  | nil => simp [decodeFrameA, encode, withChecksum]
  | cons l body =>
    constructor
    · intro h
      simp only [decodeFrameA] at h
      split_ifs at h with hlen
      obtain ⟨p, rfl, rfl⟩ := checkedBody_map_eq_ok_iff.1 h
      obtain ⟨hp, rfl⟩ := length_eq_count_add_one_iff.1 hlen
      exact ⟨p, hp, rfl, rfl⟩
    · rintro ⟨p, hp, hbytes, rfl⟩
      obtain ⟨rfl, rfl⟩ : l = countByte p.length ∧ body = p ++ [checksum (hdrA :: countByte p.length :: p)] := by
        simpa [encode, withChecksum] using hbytes
      exact (if_pos (length_eq_count_add_one_iff.2 ⟨hp, rfl⟩)).trans (checkedBody_map_eq_ok_iff.2 ⟨p, rfl, rfl⟩)

theorem decodeFrameB_eq_ok_iff :
    decodeFrameB body = .ok m ↔
      ∃ p, p.length ≤ 255 ∧ hdrB :: body = encode (.frameB p) ∧ m = messageOfPayloadB p := by
  constructor
  · intro h
    unfold decodeFrameB at h
    split_ifs at h with hlen
    obtain ⟨p, rfl, rfl⟩ := checkedBody_map_eq_ok_iff.1 h
    exact ⟨p, by simp at hlen; omega, rfl, rfl⟩
  · rintro ⟨p, hp, hbytes, rfl⟩
    obtain rfl : body = p ++ [checksum (hdrB :: p)] := List.tail_eq_of_cons_eq hbytes
    exact (if_neg (by simp; omega)).trans (checkedBody_map_eq_ok_iff.2 ⟨p, rfl, rfl⟩)

/-- The header byte tells the two frame formats apart (R94, R95). -/
theorem decodeFrame_eq_ok_iff :
    decodeFrame bytes = .ok m ↔
      (∃ p, p.length ≤ 255 ∧ bytes = encode (.frameA p) ∧ m = .frameA p) ∨
      (∃ p, p.length ≤ 255 ∧ bytes = encode (.frameB p) ∧ m = messageOfPayloadB p) := by
  constructor
  · intro h
    cases bytes with
    | nil => cases h
    | cons b body =>
      simp only [decodeFrame] at h
      split_ifs at h with hA hB
      · subst hA; exact .inl (decodeFrameA_eq_ok_iff.1 h)
      · subst hB; exact .inr (decodeFrameB_eq_ok_iff.1 h)
  · rintro (⟨p, hp, rfl, rfl⟩ | ⟨p, hp, rfl, rfl⟩)
    · exact decodeFrameA_eq_ok_iff.2 ⟨p, hp, rfl, rfl⟩
    · exact decodeFrameB_eq_ok_iff.2 ⟨p, hp, rfl, rfl⟩

theorem decodeBufferReply_eq_ok_iff :
    decodeBufferReply bytes = .ok m ↔
      ∃ d t, d.length ≤ 255 ∧ bytes = encode (.bufferReply d t) ∧ m = .bufferReply d t := by
  constructor
  · intro h
    cases bytes with
    | nil => cases h
    | cons n body =>
      simp only [decodeBufferReply] at h
      split_ifs at h with hlen
      split at h
      · cases h
      · rename_i d t hsplit
        cases h
        obtain rfl := splitLast_eq_some_iff.1 hsplit
        obtain ⟨hd, rfl⟩ := length_eq_count_add_one_iff.1 hlen
        exact ⟨d, t, hd, rfl, rfl⟩
  · rintro ⟨d, t, hd, rfl, rfl⟩
    have hlen := (length_eq_count_add_one_iff (c := t)).2 ⟨hd, rfl⟩
    simp only [encode, List.cons_append, decodeBufferReply, if_pos hlen, splitLast_append]

theorem decodeOneByte_eq_ok_iff {f : Byte → Message} :
    decodeOneByte f bytes = .ok m ↔ ∃ b, bytes = [b] ∧ m = f b := by
  match bytes with
  | [] => simp [decodeOneByte]
  | [b] => simp [decodeOneByte, eq_comm]
  | _ :: _ :: _ => simp [decodeOneByte]

theorem decodeFillReply_eq_ok_iff :
    decodeFillReply bytes = .ok m ↔
      ∃ r0 r1 level r3 r4, bytes = [r0, r1, level, r3, r4] ∧ m = .fillReply r0 r1 level r3 r4 := by
  constructor
  · intro h
    unfold decodeFillReply at h
    split at h <;> cases h
    exact ⟨_, _, _, _, _, rfl, rfl⟩
  · rintro ⟨r0, r1, level, r3, r4, rfl, rfl⟩
    rfl

end Decoders

section Canonical
/-! The canonical form (log 18). -/

variable {m : Message}

theorem messageOfPayloadB_cases (p : List Byte) :
    (p = payloadQF ∧ messageOfPayloadB p = .queryFillFrame) ∨
    (p = payloadQS ∧ messageOfPayloadB p = .queryReadFrame) ∨
    messageOfPayloadB p = .frameB p := by
  unfold messageOfPayloadB
  split_ifs with hf hs
  · exact .inl ⟨hf, rfl⟩
  · exact .inr (.inl ⟨hs, rfl⟩)
  · exact .inr (.inr rfl)

theorem canon_messageOfPayloadB (p : List Byte) : (messageOfPayloadB p).canon = messageOfPayloadB p := by
  rcases messageOfPayloadB_cases p with ⟨-, h⟩ | ⟨-, h⟩ | h
  · rw [h]; rfl
  · rw [h]; rfl
  · rw [h]; exact h

/-- The canonical form travels as the same bytes on the same channel. -/
theorem encode_messageOfPayloadB (p : List Byte) : encode (messageOfPayloadB p) = encode (.frameB p) := by
  rcases messageOfPayloadB_cases p with ⟨rfl, -⟩ | ⟨rfl, -⟩ | h
  · decide
  · decide
  · rw [h]

theorem channel_messageOfPayloadB (p : List Byte) : (messageOfPayloadB p).channel = .wireOut := by
  rcases messageOfPayloadB_cases p with ⟨-, h⟩ | ⟨-, h⟩ | h <;> rw [h] <;> rfl

theorem wellFormed_messageOfPayloadB {p : List Byte} (hp : p.length ≤ 255) :
    (messageOfPayloadB p).wellFormed = true := by
  rcases messageOfPayloadB_cases p with ⟨-, h⟩ | ⟨-, h⟩ | h <;> rw [h]
  · rfl
  · rfl
  · exact decide_eq_true hp

theorem Message.canon_cases (m : Message) :
    m.canon = m ∨ (m = .frameB payloadQF ∧ m.canon = .queryFillFrame) ∨
      (m = .frameB payloadQS ∧ m.canon = .queryReadFrame) := by
  cases m with
  | frameB p =>
    rcases messageOfPayloadB_cases p with ⟨rfl, h⟩ | ⟨rfl, h⟩ | h
    · exact .inr (.inl ⟨rfl, h⟩)
    · exact .inr (.inr ⟨rfl, h⟩)
    · exact .inl h
  | _ => exact .inl rfl

end Canonical

section RoundTrips

/-- Decoding an encoding: each format by what its decoder accepts. -/
theorem decode_encode {m : Message} (hw : m.wellFormed = true) : decode m.channel (encode m) = .ok m.canon := by
  cases m with
  | command i =>
    obtain ⟨hc, hi⟩ : i.isCommand = true ∧ i.wellFormed = true := by simpa [Message.wellFormed] using hw
    obtain ⟨b, hb, hd⟩ := (Laws.CommandByte.statement i).1 hc hi
    exact decodeOneByte_eq_ok_iff.2 ⟨b, by simp [encode, hb], by rw [hd]; rfl⟩
  | frameA p => exact decodeFrame_eq_ok_iff.2 (.inl ⟨p, of_decide_eq_true hw, rfl, rfl⟩)
  | frameB p => exact decodeFrame_eq_ok_iff.2 (.inr ⟨p, of_decide_eq_true hw, rfl, rfl⟩)
  | queryFillFrame => exact decodeFrame_eq_ok_iff.2 (.inr ⟨payloadQF, by decide, encode_messageOfPayloadB _, rfl⟩)
  | queryReadFrame => exact decodeFrame_eq_ok_iff.2 (.inr ⟨payloadQS, by decide, encode_messageOfPayloadB _, rfl⟩)
  | ackByte a => exact decodeOneByte_eq_ok_iff.2 ⟨a, rfl, rfl⟩
  | fillReply r0 r1 level r3 r4 => exact decodeFillReply_eq_ok_iff.2 ⟨r0, r1, level, r3, r4, rfl, rfl⟩
  | bufferReply d t => exact decodeBufferReply_eq_ok_iff.2 ⟨d, t, of_decide_eq_true hw, rfl, rfl⟩

/-- Encoding what was decoded, channel by channel. -/
theorem of_decode_eq_ok {ch : Channel} {bytes : List Byte} {m : Message} (h : decode ch bytes = .ok m) :
    m.channel = ch ∧ m.wellFormed = true ∧ m.canon = m ∧ encode m = bytes := by
  cases ch with
  | cmd =>
    obtain ⟨b, rfl, rfl⟩ := decodeOneByte_eq_ok_iff.1 h
    exact ⟨rfl, by simp [Message.wellFormed, Machine.decodeCmd_isCommand, decodeCmd_wellFormed], rfl,
      by simp [encode, encodeCmd_decodeCmd]⟩
  | wireOut =>
    rcases decodeFrame_eq_ok_iff.1 h with ⟨p, hp, rfl, rfl⟩ | ⟨p, hp, rfl, rfl⟩
    · exact ⟨rfl, decide_eq_true hp, rfl, rfl⟩
    · exact ⟨channel_messageOfPayloadB p, wellFormed_messageOfPayloadB hp, canon_messageOfPayloadB p,
        encode_messageOfPayloadB p⟩
  | ackWait =>
    obtain ⟨b, rfl, rfl⟩ := decodeOneByte_eq_ok_iff.1 h
    exact ⟨rfl, rfl, rfl, rfl⟩
  | fillReply =>
    obtain ⟨r0, r1, level, r3, r4, rfl, rfl⟩ := decodeFillReply_eq_ok_iff.1 h
    exact ⟨rfl, rfl, rfl, rfl⟩
  | bufferReply =>
    obtain ⟨d, t, hd, rfl, rfl⟩ := decodeBufferReply_eq_ok_iff.1 h
    exact ⟨rfl, decide_eq_true hd, rfl, rfl⟩

end RoundTrips

end Sys2Proof


section
open Sys2Proof Sys2Proof.Machine

/-- Settles O3: each well-formed unit decodes to its canonical form, which differs from it for two payloads alone. -/
theorem decodeOfEncodeIsCanonical : Obligations.DecodeOfEncodeIsCanonical :=
  fun m hw => ⟨decode_encode hw, m.canon_cases⟩

/-- Settles O4, channel by channel. -/
theorem encodeOfDecodeIsTheBytes : Obligations.EncodeOfDecodeIsTheBytes :=
  fun _ _ _ h => of_decode_eq_ok h

end

namespace Sys2Proof

section Checksum
/-! The checksum over integers (R97). -/

theorem checksum_eq_ofNat_sum (l : List Byte) : checksum l = BitVec.ofNat 8 (l.map BitVec.toNat).sum := by
  induction l with
  | nil => rfl
  | cons b l ih =>
    rw [checksum, ih, List.map_cons, List.sum_cons, BitVec.ofNat_add, BitVec.ofNat_toNat, BitVec.setWidth_eq]

/-- Reducing a number modulo 256 first does not change its byte. -/
theorem checksum_eq_ofNat_of_sum_mod {l : List Byte} {n : Nat} (h : (l.map BitVec.toNat).sum = n) :
    checksum l = BitVec.ofNat 8 (n % 256) := by
  rw [checksum_eq_ofNat_sum, h]
  exact BitVec.eq_of_toNat_eq (by simp)

end Checksum

end Sys2Proof

section
open Sys2Proof Sys2Proof.Machine

/-- Settles O5: the checksum sums header, length byte and payload; a length up to 255 is its byte's value. -/
theorem checksumIsTheSumModulo256 : Obligations.ChecksumIsTheSumModulo256 := by
  intro p hp
  have hA : ((hdrA :: countByte p.length :: p).map BitVec.toNat).sum = 0x11 + p.length + (p.map BitVec.toNat).sum := by
    simp [countByte_toNat hp, hdrA, Nat.add_assoc]
  have hB : ((hdrB :: p).map BitVec.toNat).sum = 0x12 + (p.map BitVec.toNat).sum := by
    simp [hdrB]
  refine ⟨?_, ?_⟩
  · rw [← checksum_eq_ofNat_of_sum_mod hA]; rfl
  · rw [← checksum_eq_ofNat_of_sum_mod hB]; rfl

end

namespace Sys2Proof.Machine

section FormatOfThePhase
/-! The format the engine is inside while it emits, and the step it takes there (R96, R103). -/

variable {s : State}

theorem State.inProgress_of_emits (h : s.phase.emits = true) : s.inProgress = some s.frameInstr := by
  cases hp : s.phase <;> simp [State.inProgress, Phase.emits, hp] at h ⊢

theorem engineStep_of_emits (h : s.phase.emits = true) : engineStep s = emit s.mode s.op.source s :=
  (engineStep_of_inProgress (State.inProgress_of_emits h)).trans (exec_frameInstr s)

end FormatOfThePhase

section Attempt
/-! An attempt, step by step: `attemptAt` is where `s` is after some bytes of its frame. -/

variable {s : State} {p sent : List Byte} {rest : List Input}

/-- `s` in phase `ph` of an attempt that has sent the bytes `sent`, `n` of them payload, with the inputs `ins` to
come. -/
def State.attemptAt (s : State) (sent : List Byte) (n : Nat) (ph : Phase) (ins : List Input) : State :=
  { s with
    txlog := s.txlog ++ sent, txbuf := s.txbuf ++ sent, csum := checksum sent, idx := BitVec.ofNat 8 n
    phase := ph, inputs := ins }

theorem State.attemptAt_txReady {n : Nat} {ph : Phase} : (s.attemptAt sent n ph rest).txReady = s.txReady := rfl

theorem State.len_attemptAt {n : Nat} {ph : Phase} {src : Source} :
    src.len (s.attemptAt sent n ph rest) = src.len s :=
  Source.len_congr rfl src

/-- The phase after the header or the length byte, and after each payload byte: TX_PAY while payload is left. -/
def State.payloadPhase (s : State) (n : Nat) : Phase := if n < s.payloadLen then .txPay else .txSum

/-- The model asks for equality where the payload's end is reached from below (R145). -/
theorem State.payloadPhase_succ {n : Nat} (hn : n < s.payloadLen) :
    s.payloadPhase (n + 1) = if n + 1 = s.payloadLen then .txSum else .txPay := by
  unfold State.payloadPhase
  by_cases hend : n + 1 = s.payloadLen
  · rw [if_pos hend, if_neg (by omega)]
  · rw [if_neg hend, if_pos (by omega)]

/-- The phase the header leads to (R142). -/
def State.phaseAfterHeader (s : State) : Phase := if s.mode = .A then .txLen else s.payloadPhase 0

/-- An engine turn in a phase of emission. -/
theorem step_attemptAt {n : Nat} {ph : Phase} (he : ph.emits = true) :
    step (s.attemptAt sent n ph (.engine :: rest)) = emit s.mode s.op.source (s.attemptAt sent n ph rest) :=
  (step_engine rfl).trans (engineStep_of_emits he)

theorem step_header (hp : s.phase = .txHdr) (hr : s.txReady = true) (hin : s.inputs = .engine :: rest) :
    step s = .next (s.attemptAt [s.mode.hdr] 0 s.phaseAfterHeader rest) := by
  rw [step_engine hin, engineStep_of_emits (s := { s with inputs := rest }) (by simp [hp, Phase.emits]),
    emit_txHdr (s := { s with inputs := rest }) hp hr, State.attemptAt, checksum_singleton]
  rfl

theorem step_lengthByte (hr : s.txReady = true) :
    step (s.attemptAt sent 0 .txLen (.engine :: rest)) =
      .next (s.attemptAt (sent ++ [s.op.source.len s]) 0 (s.payloadPhase 0) rest) := by
  refine (step_attemptAt rfl).trans ((emit_txLen rfl (State.attemptAt_txReady.trans hr)).trans ?_)
  rw [State.len_attemptAt]
  simp only [State.attemptAt, checksum_append, checksum_singleton, List.append_assoc]
  rfl

theorem step_payloadByte {n : Nat} {b : Byte} (hr : s.txReady = true) (hn : n < s.payloadLen)
    (hb : s.op.source.byte s n = .ok b) :
    step (s.attemptAt sent n .txPay (.engine :: rest)) =
      .next (s.attemptAt (sent ++ [b]) (n + 1) (s.payloadPhase (n + 1)) rest) := by
  have hidx : (BitVec.ofNat 8 n).toNat = n := countByte_toNat (Nat.le_of_lt (Nat.lt_of_lt_of_le hn s.payloadLen_le))
  refine (step_attemptAt rfl).trans ((emit_txPay (b := b) rfl (State.attemptAt_txReady.trans hr) ?_).trans ?_)
  · show s.op.source.byte _ (BitVec.ofNat 8 n).toNat = _
    rw [hidx, ← hb]
    exact Source.byte_congr rfl _ _
  · rw [State.len_attemptAt]
    simp only [State.attemptAt, checksum_append, checksum_singleton, List.append_assoc, hidx, BitVec.ofNat_add,
      State.payloadPhase_succ hn]
    rfl

theorem step_checksum {n : Nat} (hr : s.txReady = true) :
    step (s.attemptAt sent n .txSum (.engine :: rest)) =
      .next
        { s with
          txlog := s.txlog ++ withChecksum sent, txbuf := s.txbuf ++ withChecksum sent
          csum := checksum sent, idx := BitVec.ofNat 8 n, inputs := rest
          phase := if s.op.acked = true then .ackWait else .idle
          timer :=
            if s.op.acked = true then (if s.cfg.boundedWait = true then .running else .stopped) else s.timer } := by
  refine (step_attemptAt rfl).trans ((emit_txSum rfl (State.attemptAt_txReady.trans hr)).trans ?_)
  simp only [State.attemptAt, withChecksum, List.append_assoc]
  rfl

/-- The engine's turns over what is left of the payload, up to its end. -/
theorem run_payload (hr : s.txReady = true) (hP : s.PayloadIs p) (k : Nat) :
    ∀ (n : Nat) (sent : List Byte), n + k = p.length →
      Sys2Proof.core.run k (s.attemptAt sent n (s.payloadPhase n) (List.replicate k .engine ++ rest)) =
        .next (s.attemptAt (sent ++ p.drop n) p.length .txSum rest) := by
  obtain ⟨hlen, hbyte⟩ := hP
  induction k with
  | zero =>
    rintro n sent rfl
    simp [State.payloadPhase, ← hlen]
  | succ k ih =>
    intro n sent hn
    have hnp : n < p.length := by omega
    have hstep := step_payloadByte (sent := sent) (rest := List.replicate k .engine ++ rest) hr (hlen ▸ hnp)
      (hbyte n hnp)
    rw [State.payloadPhase, if_pos (hlen ▸ hnp), List.replicate_succ, List.cons_append, run_succ_next hstep,
      ih (n + 1) _ (by omega), List.append_assoc, List.singleton_append, List.getElem_cons_drop]

/-- The engine's turns before the payload: one in mode B, two in mode A (R94, R95). -/
theorem run_preamble (hp : s.phase = .txHdr) (hr : s.txReady = true)
    (hin : s.inputs = List.replicate s.preamble.length .engine ++ rest) :
    Sys2Proof.core.run s.preamble.length s = .next (s.attemptAt s.preamble 0 (s.payloadPhase 0) rest) := by
  by_cases hm : s.mode = .A
  · rw [State.preamble_modeA hm] at hin ⊢
    have hhdr := step_header hp hr hin
    rw [State.phaseAfterHeader, if_pos hm] at hhdr
    exact (run_succ_next hhdr 1).trans (run_succ_next (step_lengthByte hr) 0)
  · rw [State.preamble_not_modeA hm] at hin ⊢
    have hhdr := step_header hp hr hin
    rw [State.phaseAfterHeader, if_neg hm] at hhdr
    exact run_succ_next hhdr 0

/-- The frame of the operation's payload: preamble, payload and their checksum (R94, R95, R97). -/
theorem State.PayloadIs.frameOf_eq (hP : s.PayloadIs p) : frameOf s.mode p = withChecksum (s.preamble ++ p) := by
  obtain ⟨hlen, -⟩ := hP
  have hcount : countByte p.length = s.op.source.len s := countByte_eq_of_toNat hlen
  cases hm : s.mode <;> simp [frameOf, encode, State.preamble, hm, Mode.hdr, hcount]

end Attempt
end Sys2Proof.Machine

section
open Sys2Proof Sys2Proof.Machine

/-- Settles O56: the preamble, the payload and the checksum byte, one after the other. -/
theorem anAttemptSendsTheFrame : Obligations.AnAttemptSendsTheFrame := by
  intro s p rest hp hr hP hin
  rw [hP.frameOf_eq] at hin ⊢
  have hlen : (withChecksum (s.preamble ++ p)).length = s.preamble.length + (p.length + 1) := by
    simp [withChecksum]
  have hturns : s.inputs = List.replicate s.preamble.length .engine ++
      (List.replicate p.length .engine ++ .engine :: rest) := by
    rw [hin, hlen, List.replicate_add, List.replicate_add, List.append_assoc, List.append_assoc]
    rfl
  have hsum : (withChecksum (s.preamble ++ p)).dropLast = s.preamble ++ p := List.dropLast_concat
  rw [hlen, run_add _ _ (run_preamble hp hr hturns), run_add _ _ (run_payload hr hP p.length 0 _ (Nat.zero_add _)),
    List.drop_zero, run_succ_next (step_checksum hr), hsum]
  rfl

/-- Settles O1: each row's byte decodes to the row. -/
theorem commandBytesDecode : Obligations.CommandBytesDecode :=
  ⟨decodeCmd_of_encodeCmd rfl rfl, decodeCmd_of_encodeCmd rfl rfl, decodeCmd_of_encodeCmd rfl rfl,
    decodeCmd_of_encodeCmd rfl rfl, decodeCmd_of_encodeCmd rfl rfl, decodeCmd_of_encodeCmd rfl rfl,
    decodeCmd_of_encodeCmd rfl rfl, decodeCmd_of_encodeCmd rfl rfl,
    fun _ _ hhi => decodeCmd_of_encodeCmd (bne_iff_ne.2 hhi) rfl⟩

/-- Settles O2: the bytes are the encodings of well-formed units. -/
theorem wireBytesDecode : Obligations.WireBytesDecode :=
  ⟨decode_encode (m := .frameA [0x1B, 0x44, 0x4C]) rfl, decode_encode (m := .frameB [0x10, 0x20, 0x30]) rfl,
    decode_encode (m := .queryFillFrame) rfl, decode_encode (m := .queryReadFrame) rfl,
    decode_encode (m := .ackByte 0x15) rfl, decode_encode (m := .fillReply 0x55 0x66 0x2A 0x77 0x88) rfl,
    decode_encode (m := .bufferReply [0xAA, 0xBB, 0xCC] 0x00) rfl⟩

/-- Settles O7: while a frame goes out its format follows OP and COMPACT, else PHASE alone names the format. -/
theorem formatInProgress : Obligations.FormatInProgress := by
  intro s
  refine ⟨fun he => ?_, fun hp => ?_, fun hp => ?_, fun hp => ?_, fun hp => ?_⟩
  · rw [State.inProgress_of_emits he]
    refine ⟨fun ho hc => ?_, fun ho hc => ?_, fun ho => ?_, fun ho => ?_, fun ho => ?_⟩
    · rcases ho with ho | ho <;> simp [State.frameInstr, Op.source, Op.mode, ho, hc]
    · rcases ho with ho | ho <;> simp [State.frameInstr, Op.source, Op.mode, ho, hc]
    · rcases ho with ho | ho <;> simp [State.frameInstr, Op.source, Op.mode, ho]
    · simp [State.frameInstr, Op.source, ho]
    · simp [State.frameInstr, Op.source, ho]
  · simp [State.inProgress, hp]
  · rcases hp with hp | hp | hp <;> simp [State.inProgress, hp]
  · rcases hp with hp | hp | hp <;> simp [State.inProgress, hp]
  · simp [State.inProgress, hp]

/-- Settles O11: both rows answer the state they are given. -/
theorem reservedCommandsChangeNothing : Obligations.ReservedCommandsChangeNothing :=
  fun _ _ _ => ⟨rfl, rfl⟩

end

namespace Sys2Proof.Machine

section TransportPrimitives
/-! The engine's side of `Tx` and `RxPop`, and the transport's own side of its transmit buffer (R123, R125). -/

variable {s : State}

/-- The engine takes a byte only where one is buffered, so its faults are all of a cell it reads or writes (R125). -/
theorem engineStep_ne_readEmpty : engineStep s ≠ .fault .readEmpty := by
  intro h
  rcases engineStep_fault h with ⟨-, hbyte⟩ | ⟨-, -, hcell⟩
  · rcases Source.byte_error hbyte with hcell | hcell <;> cases hcell
  · cases hcell

theorem emit_of_not_accepting (m : Mode) (src : Source) (hr : s.txReady = false) : emit m src s = .next s := by
  rcases emit_cases m src s with e | ⟨-, ready, -⟩ | ⟨-, ready, -⟩ | ⟨-, ready, -⟩ | ⟨-, ready, -⟩
  · exact e
  all_goals cases hr.symm.trans ready

theorem State.drain_cons {b : Byte} {later : List Byte} (h : s.txbuf = b :: later) :
    s.drain = { s with txbuf := later } := by
  rw [State.drain, h, List.tail_cons]

theorem State.drain_nil (h : s.txbuf = []) : s.drain = s := by
  rw [State.drain, h, List.tail_nil, ← h]

theorem step_txDrain {rest : List Input} (hin : s.inputs = .txDrain :: rest) :
    step s = .next { s.drain with inputs := rest } :=
  step_cons hin

end TransportPrimitives

end Sys2Proof.Machine

section
open Sys2Proof Sys2Proof.Machine

/-- Settles O47: neither the engine nor an agent outside it reads an empty queue. -/
theorem noStepReadsAnEmptyQueue : Obligations.NoStepReadsAnEmptyQueue := by
  intro s h
  rcases step_fault h with ⟨rest, he⟩ | hcell | hoverflow
  · exact engineStep_ne_readEmpty he
  · cases hcell
  · cases hoverflow

/-- Settles O10: idle and closed are what OPEN asks for. -/
theorem openOpensTheTransport : Obligations.OpenOpensTheTransport :=
  fun _ hidle hclosed => if_pos ⟨hidle, hclosed⟩

/-- Settles O19: the four formats are one emission, which holds; the transport's inputs are one update each. -/
theorem emissionWaitsForTheTransport : Obligations.EmissionWaitsForTheTransport := by
  intro s
  refine ⟨fun i hi _ hr => ?_, fun accepts rest hin => step_cons hin, fun rest hin =>
    ⟨fun b later hbuf => ?_, fun hbuf => ?_⟩⟩
  · rcases hi with rfl | rfl | rfl | rfl <;> exact emit_of_not_accepting _ _ hr
  · rw [step_txDrain hin, State.drain_cons hbuf]
  · rw [step_txDrain hin, State.drain_nil hbuf]

end

namespace Sys2Proof.Machine

section NoAcknowledgment
/-! What an acknowledged operation keeps while no `ACK_CODE` comes: ACK is the one step that leaves an attempt, but for
the TX_SUM step of an unacknowledged one (R146, R148). -/

variable {s t : State} {inp : Option Input}

theorem State.Unacknowledged.ne_idle (h : s.Unacknowledged) : s.phase ≠ .idle := by
  obtain ⟨hattempt, -⟩ := h
  intro hp
  simp [hp, Phase.inAttempt] at hattempt

/-- BUSY is bit 0 of STATUS (R28). -/
theorem State.status_busy (h : s.phase ≠ .idle) : s.status.getLsbD 0 = true := by
  obtain ⟨hbit, -⟩ := flags_getLsbD s.busy s.opened s.compact
  exact hbit.trans (State.busy_of_phase h)

/-- The engine leaves the attempt of an acknowledged operation by ACK alone. -/
theorem Transition.stays_inAttempt (h : Transition s t) (hs : s.Unacknowledged)
    (hq : s.rxq.head? ≠ some s.cfg.ackCode) : t.phase.inAttempt = true := by
  obtain ⟨hattempt, hacked⟩ := hs
  cases h with
  | same => exact hattempt
  | txHdr | txLen | txPay => dsimp only; split_ifs <;> rfl
  | txSum => simp [hacked, Phase.inAttempt]
  | ack rest _ hack => simp [hack] at hq
  | nak | timeout => rfl
  | rxPre _ _ hp | rxFill _ _ hp | rxPost _ _ hp | rxLen _ _ hp | rxData _ _ hp | rxTrail _ _ hp =>
    simp [hp, Phase.inAttempt] at hattempt

/-- No step changes what is still to come. -/
theorem AgentTransition.inputs_eq (h : AgentTransition s inp t) : t.inputs = s.inputs := by
  cases h with
  | engine _ _ _ he => cases he <;> simp
  | _ => rfl

/-- No agent but reset ends the operation: the host's commands need PHASE = IDLE, and the engine the acknowledgment. -/
theorem AgentTransition.keeps_unacknowledged (h : AgentTransition s inp t) (hr : inp ≠ some .reset)
    (hs : s.Unacknowledged) (hq : s.rxq.head? ≠ some s.cfg.ackCode) : t.op = s.op ∧ t.Unacknowledged := by
  have hop : t.op = s.op := (h.op_cases hr).resolve_right fun ⟨_, hidle, _⟩ => hs.ne_idle hidle
  obtain ⟨hattempt, hacked⟩ := hs
  refine ⟨hop, ?_, hop ▸ hacked⟩
  rcases h.phase_cases hr with he | hsame | ⟨_, hidle, -⟩
  · exact he.stays_inAttempt ⟨hattempt, hacked⟩ hq
  · exact hsame ▸ hattempt
  · simp [hidle, Phase.inAttempt] at hattempt

/-- RXQ gets no `ACK_CODE` but from the device. -/
theorem AgentTransition.keeps_noAckQueued (h : AgentTransition s inp t) (hr : inp ≠ some .reset)
    (hd : inp ≠ some (.device s.cfg.ackCode)) (hq : ∀ b ∈ s.rxq, b ≠ s.cfg.ackCode) :
    ∀ b ∈ t.rxq, b ≠ s.cfg.ackCode := by
  rcases h.rxq_cases hr with he | hsame | ⟨v, happend, -, rfl⟩
  · rcases he.consumes with hsame | ⟨c, hcons, -⟩
    · rwa [hsame]
    · exact fun b hb => hq b (hcons ▸ List.mem_cons_of_mem c hb)
  · rwa [hsame]
  · rw [happend]
    intro b hb
    rcases List.mem_append.1 hb with hb | hb
    · exact hq b hb
    · rw [List.mem_singleton.1 hb]
      rintro rfl
      exact hd rfl

/-- Operation `o` is in an attempt and its acknowledgment never comes. -/
def State.NeverAcknowledged (o : Op) (s : State) : Prop := s.op = o ∧ s.Unacknowledged ∧ s.NoAckComes

theorem step_keeps_neverAcknowledged {o : Op} (hs : s.NeverAcknowledged o) (h : step s = .next t) :
    t.NeverAcknowledged o := by
  obtain ⟨hop, hun, hqueued, hcoming⟩ := hs
  obtain ⟨rest, hrest, ht⟩ := transition_of_step h
  have hr : s.inputs.head? ≠ some .reset := fun he => (hcoming _ (List.mem_of_head? he)).1 rfl
  have hd : s.inputs.head? ≠ some (.device s.cfg.ackCode) := fun he => (hcoming _ (List.mem_of_head? he)).2 rfl
  obtain ⟨hopt, hunt⟩ := ht.keeps_unacknowledged hr hun fun he => hqueued _ (List.mem_of_head? he) rfl
  refine ⟨hopt.trans hop, hunt, ?_, ?_⟩
  · rw [ht.cfg_eq]
    exact ht.keeps_noAckQueued hr hd hqueued
  · rw [ht.inputs_eq, ht.cfg_eq]
    exact fun inp hinp => hcoming inp (hrest inp hinp)

end NoAcknowledgment

end Sys2Proof.Machine

section
open Sys2Proof Sys2Proof.Machine

/-- Settles O60: every step keeps the operation in its attempt, and keeps the acknowledgment from coming. -/
theorem withoutAckTheOperationNeverEnds : Obligations.WithoutAckTheOperationNeverEnds := by
  intro s t k hun hno hrun
  obtain ⟨hop, ht, -⟩ : t.NeverAcknowledged s.op :=
    run_keeps (fun _ _ => step_keeps_neverAcknowledged) k s t ⟨rfl, hun, hno⟩ hrun
  exact ⟨ht, hop, State.status_busy ht.ne_idle⟩

end

namespace Sys2Proof.Machine

section Outgoing
/-! The four outgoing formats are one emission, with the mode and the payload source of each (R94, R95, R103). -/

variable {i : Instr} {s t : State}

theorem exec_outgoing (h : i = .frameA ∨ i = .frameB ∨ i = .queryFillFrame ∨ i = .queryReadFrame) :
    ∃ m src, ∀ s, exec i s = emit m src s := by
  rcases h with rfl | rfl | rfl | rfl
  · exact ⟨.A, .payload, fun _ => rfl⟩
  · exact ⟨.B, .payload, fun _ => rfl⟩
  · exact ⟨.B, .queryFill, fun _ => rfl⟩
  · exact ⟨.B, .queryRead, fun _ => rfl⟩

/-- In TX_PAY an emission that answers has read its payload byte. -/
theorem emit_txPay_next {m : Mode} {src : Source} (hp : s.phase = .txPay) (hr : s.txReady = true)
    (h : emit m src s = .next t) : ∃ b, src.byte s s.idx.toNat = .ok b := by
  cases hb : src.byte s s.idx.toNat with
  | ok b => exact ⟨b, rfl⟩
  | error f => simp [emit_txPay_error hp hr hb] at h

/-- What an emission step that answers does: it holds, or hands one byte to the transport (R142 to R146). -/
theorem emit_next_cases {m : Mode} {src : Source} (h : emit m src s = .next t) :
    t = s ∨ ∃ b c i p w,
      t = { s with txlog := s.txlog ++ [b], txbuf := s.txbuf ++ [b], csum := c, idx := i, phase := p, timer := w } := by
  rcases emit_cases m src s with e | ⟨hp, hr, -⟩ | ⟨hp, hr, -⟩ | ⟨hp, hr, -⟩ | ⟨hp, hr, -⟩
  · rw [e] at h; cases h; exact .inl rfl
  · rw [emit_txHdr hp hr] at h; cases h; exact .inr ⟨_, _, _, _, _, rfl⟩
  · rw [emit_txLen hp hr] at h; cases h; exact .inr ⟨_, _, _, _, _, rfl⟩
  · obtain ⟨b, hb⟩ := emit_txPay_next hp hr h
    rw [emit_txPay hp hr hb] at h; cases h; exact .inr ⟨_, _, _, _, _, rfl⟩
  · rw [emit_txSum hp hr] at h; cases h; exact .inr ⟨_, _, _, _, _, rfl⟩

/-- The operations SENDNA and SENDBNA alone are not acknowledged (R12). -/
theorem Op.acked_eq_true_iff {o : Op} : o.acked = true ↔ o ≠ .sendna ∧ o ≠ .sendbna := by
  cases o <;> decide

end Outgoing

section AckByte
/-! ACK_BYTE, by what RXQ holds (R147 to R150). -/

variable {s t : State}

theorem exec_ackByte_empty (hp : s.phase = .ackWait) (hq : s.rxq = []) : exec .ackByte s = timeoutOrWait s := by
  simp [exec, execAckByte, hp, awaitAck, State.rxAvail, hq]

theorem exec_ackByte_cons {b : Byte} {rest : List Byte} (hp : s.phase = .ackWait) (hq : s.rxq = b :: rest) :
    exec .ackByte s = judgeAck b { s with rxq := rest } := by
  simp [exec, execAckByte, hp, awaitAck, State.rxAvail, State.rxPop, hq]

theorem exec_ackByte_ack {rest : List Byte} (hp : s.phase = .ackWait) (hq : s.rxq = s.cfg.ackCode :: rest) :
    exec .ackByte s = .next { s with rxq := rest }.acknowledged :=
  (exec_ackByte_cons hp hq).trans (if_pos rfl)

theorem exec_ackByte_nak {b : Byte} {rest : List Byte} (hp : s.phase = .ackWait) (hq : s.rxq = b :: rest)
    (hb : b ≠ s.cfg.ackCode) : exec .ackByte s = .next { s with rxq := rest }.restartFrame :=
  (exec_ackByte_cons hp hq).trans (if_neg hb)

theorem exec_ackByte_timeout (hp : s.phase = .ackWait) (hq : s.rxq = []) (hw : s.cfg.boundedWait = true) :
    exec .ackByte s = .next s.restartFrame :=
  (exec_ackByte_empty hp hq).trans (if_pos hw)

theorem exec_ackByte_wait (hp : s.phase = .ackWait) (hq : s.rxq = []) (hw : s.cfg.boundedWait = false) :
    exec .ackByte s = .next s :=
  (exec_ackByte_empty hp hq).trans (if_neg (by simp [hw]))

theorem exec_ackByte_of_ne (hp : s.phase ≠ .ackWait) : exec .ackByte s = .next s := by
  cases h : s.phase <;> simp [exec, execAckByte, h] at hp ⊢

/-- Everything ACK_BYTE can do: hold, end the wait, or restart the frame with a byte consumed or none. -/
theorem exec_ackByte_cases (s : State) :
    exec .ackByte s = .next s ∨
    (∃ b rest, s.rxq = b :: rest ∧ exec .ackByte s = .next { s with rxq := rest }.acknowledged) ∨
    (∃ b rest, s.rxq = b :: rest ∧ exec .ackByte s = .next { s with rxq := rest }.restartFrame) ∨
    exec .ackByte s = .next s.restartFrame := by
  by_cases hp : s.phase = .ackWait
  · cases hq : s.rxq with
    | nil =>
      cases hw : s.cfg.boundedWait with
      | false => exact .inl (exec_ackByte_wait hp hq hw)
      | true => exact .inr (.inr (.inr (exec_ackByte_timeout hp hq hw)))
    | cons b rest =>
      by_cases hb : b = s.cfg.ackCode
      · exact .inr (.inl ⟨b, rest, rfl, exec_ackByte_ack hp (hb ▸ hq)⟩)
      · exact .inr (.inr (.inl ⟨b, rest, rfl, exec_ackByte_nak hp hq hb⟩))
  · exact .inl (exec_ackByte_of_ne hp)

/-- The way out of the retry loop moves PHASE and IDX and stops the timer (R148). -/
theorem State.acknowledged_eq (s : State) :
    s.acknowledged = { s with phase := s.acknowledged.phase, idx := s.acknowledged.idx, timer := .stopped } := by
  unfold State.acknowledged
  cases s.op <;> rfl

theorem State.inProgress_ackWait (hp : s.phase = .ackWait) : s.inProgress = some .ackByte := by
  simp [State.inProgress, hp]

theorem engineStep_ackWait (hp : s.phase = .ackWait) : engineStep s = exec .ackByte s :=
  engineStep_of_inProgress (State.inProgress_ackWait hp)

/-- The engine's turn in ACK_WAIT with RXQ empty, in the bounded variant (R150). -/
theorem engineStep_timeout (hp : s.phase = .ackWait) (hq : s.rxq = []) (hw : s.cfg.boundedWait = true) :
    engineStep s = .next s.restartFrame :=
  (engineStep_ackWait hp).trans (exec_ackByte_timeout hp hq hw)

end AckByte

end Sys2Proof.Machine

section
open Sys2Proof Sys2Proof.Machine

/-- Settles O13: a command is ignored, starts its operation, or opens the transport. -/
theorem commandFrame : Obligations.CommandFrame := by
  intro i s t hi h
  rcases exec_command_cases s hi with e | ⟨o, hio, -, -, e⟩ | ⟨hio, -, -, e⟩ <;> rw [e] at h <;> cases h
  · exact ⟨rfl, fun _ => ⟨rfl, rfl⟩, fun _ => ⟨rfl, rfl⟩, fun _ => ⟨rfl, rfl⟩⟩
  · have hne : i ≠ .openLine := by
      rw [hio]
      cases o <;> decide
    exact ⟨rfl, fun _ => ⟨rfl, rfl⟩, fun hopen => absurd hopen hne, fun _ => ⟨rfl, rfl⟩⟩
  · exact ⟨rfl, fun hne => absurd hio hne, fun _ => ⟨rfl, rfl⟩, fun _ => ⟨rfl, rfl⟩⟩

/-- Settles O20: the four formats are one emission, which holds or sends one byte. -/
theorem emissionFrame : Obligations.EmissionFrame := by
  intro i s t hi h
  obtain ⟨m, src, hemit⟩ := exec_outgoing hi
  rcases emit_next_cases (hemit s ▸ h) with rfl | ⟨b, c, n, p, w, rfl⟩
  · exact ⟨rfl, .inl ⟨rfl, rfl⟩, fun _ => ⟨rfl, rfl⟩⟩
  · exact ⟨rfl, .inr ⟨b, rfl, rfl⟩, fun _ => ⟨rfl, rfl⟩⟩

/-- Settles O25: the step leaves the state as it is, and so any number of steps. -/
theorem ackWaitHasNoTimeout : Obligations.AckWaitHasNoTimeout := by
  intro s k hp hq hw
  have hwait : exec .ackByte s = .next s := exec_ackByte_wait hp hq hw
  refine ⟨hwait, fun hin => run_of_fixed ?_ k⟩
  rw [step_nil hin, engineStep_ackWait hp, hwait]

/-- Settles O26, by cases over what ACK_BYTE can do. -/
theorem ackFrame : Obligations.AckFrame := by
  intro s t h
  rcases exec_ackByte_cases s with e | ⟨b, rest, hq, e⟩ | ⟨b, rest, hq, e⟩ | e <;> rw [e] at h <;> cases h
  · exact ⟨rfl, .inl rfl, .inl rfl, fun _ => ⟨rfl, rfl⟩⟩
  · refine ⟨?_, .inr ⟨b, by simpa using hq⟩, ?_, fun _ => by simp⟩
    · conv_lhs => rw [State.acknowledged_eq]
      simp
    · rw [State.acknowledged_idx]
      split_ifs with hop
      · exact .inr hop
      · exact .inl rfl
  · exact ⟨rfl, .inr ⟨b, hq⟩, .inl rfl, fun _ => ⟨rfl, rfl⟩⟩
  · exact ⟨rfl, .inl rfl, .inl rfl, fun _ => ⟨rfl, rfl⟩⟩

end

namespace Sys2Proof.Machine

section AnsweredFrame
/-! One frame and the device's answer to it (R149 to R151): `answered` is where the engine judges the answer. -/

variable {s t : State} {p : List Byte} {rest : List Input}

/-- Where an attempt that sends the frame of `p` stands when the answer has been taken from RXQ and is judged. -/
def State.answered (s : State) (p : List Byte) (rest : List Input) : State :=
  { s with
    txlog := s.txlog ++ frameOf s.mode p, txbuf := s.txbuf ++ frameOf s.mode p
    csum := checksum (frameOf s.mode p).dropLast, idx := BitVec.ofNat 8 p.length
    phase := .ackWait, timer := .stopped, rxq := [], inputs := rest }

/-- An acknowledged operation at the start of its frame, the channel ready for the frame and for an answer. -/
structure State.AtFrameStart (s : State) (p : List Byte) : Prop where
  header : s.phase = .txHdr
  accepts : s.txReady = true
  opened : s.opened = true
  acked : s.op.acked = true
  payload : s.PayloadIs p
  noneQueued : s.rxq = []
  room : ∀ d, s.cfg.rxDepth = some d → 0 < d

/-- What the payload is depends on OP, LEN and PBUF alone (R12). -/
theorem State.PayloadIs.congr (h : s.PayloadIs p) (hop : t.op = s.op) (hlen : t.len = s.len) (hpbuf : t.pbuf = s.pbuf) :
    t.PayloadIs p := by
  obtain ⟨hl, hb⟩ := h
  refine ⟨?_, fun i hi => ?_⟩
  · rw [State.payloadLen, hop, Source.len_congr hlen]; exact hl
  · rw [hop, Source.byte_congr hpbuf]; exact hb i hi

theorem step_device {v : Byte} (ho : s.opened = true) (hf : s.rxFull = false) (hin : s.inputs = .device v :: rest) :
    step s = .next { s with rxq := s.rxq ++ [v], timer := .stopped, inputs := rest } :=
  (step_cons hin).trans (State.deviceAppend_room (s := { s with inputs := rest }) v ho hf)

theorem step_judgeAck {b : Byte} {more : List Byte} (hp : s.phase = .ackWait) (hq : s.rxq = b :: more)
    (hin : s.inputs = .engine :: rest) : step s = judgeAck b { s with rxq := more, inputs := rest } := by
  rw [step_engine hin, engineStep_ackWait (s := { s with inputs := rest }) hp]
  exact exec_ackByte_cons hp hq

/-- The device's byte goes into the empty queue, and the engine judges it at its next turn. -/
theorem run_answer {b : Byte} (hp : s.phase = .ackWait) (ho : s.opened = true) (hq : s.rxq = [])
    (hroom : ∀ d, s.cfg.rxDepth = some d → 0 < d) (hin : s.inputs = .device b :: .engine :: rest)
    (h : judgeAck b { s with rxq := [], timer := .stopped, inputs := rest } = .next t) :
    Sys2Proof.core.run 2 s = .next t := by
  have hnotFull : s.rxFull = false := s.rxFull_eq_false_iff.2 (by simpa [hq] using hroom)
  have hdevice := step_device ho hnotFull hin
  rw [hq, List.nil_append] at hdevice
  have hjudge : step { s with rxq := [b], timer := .stopped, inputs := .engine :: rest } = .next t :=
    Eq.trans (step_judgeAck hp rfl rfl) h
  exact (run_succ_next hdevice 1).trans (run_succ_next hjudge 0)

/-- A whole frame, the device's answer and the engine's judgment of it. -/
theorem run_attempt {b : Byte} (hs : s.AtFrameStart p)
    (hin : s.inputs = attempt (frameOf s.mode p).length b ++ rest) (h : judgeAck b (s.answered p rest) = .next t) :
    Sys2Proof.core.run ((frameOf s.mode p).length + 2) s = .next t := by
  have hturns : s.inputs =
      List.replicate (frameOf s.mode p).length .engine ++ .device b :: .engine :: rest := by
    rw [hin, attempt, List.append_assoc]
    rfl
  rw [run_add _ _ (anAttemptSendsTheFrame s p _ hs.header hs.accepts hs.payload hturns)]
  exact run_answer (if_pos hs.acked) hs.opened hs.noneQueued hs.room rfl h

/-- A restart keeps all a frame needs (R200). -/
theorem State.AtFrameStart.restart (hs : s.AtFrameStart p) : (s.answered p rest).restartFrame.AtFrameStart p where
  header := rfl
  accepts := hs.accepts
  opened := hs.opened
  acked := hs.acked
  payload := hs.payload.congr rfl rfl rfl
  noneQueued := rfl
  room := hs.room

/-- `n` frames of `p` have been sent from `s`, every answer is consumed, and the last was the acknowledgment: the inputs
`rest` are left, and the operation is over or in its reply phase (R148). -/
def State.AcknowledgedAfter (s : State) (p : List Byte) (n : Nat) (rest : List Input) (t : State) : Prop :=
  t.txlog = s.txlog ++ (List.replicate n (frameOf s.mode p)).flatten ∧
  t.rxq = [] ∧ t.inputs = rest ∧ t.op = s.op ∧ t.len = s.len ∧ t.pbuf = s.pbuf ∧
  (s.op = .send ∨ s.op = .sendb → t.phase = .idle) ∧
  (s.op = .qfill → t.phase = .rxPre ∧ t.idx = 0) ∧ (s.op = .rdbuf → t.phase = .rxLen)

/-- The frame that is acknowledged at once. -/
theorem State.acknowledgedAfter_one : s.AcknowledgedAfter p 1 rest (s.answered p rest).acknowledged := by
  have hop : (s.answered p rest).op = s.op := rfl
  refine ⟨?_, State.acknowledged_rxq _, State.acknowledged_inputs _, State.acknowledged_op _,
    State.acknowledged_len _, State.acknowledged_pbuf _, fun h => ?_, fun h => ⟨?_, ?_⟩, fun h => ?_⟩
  · simp [State.answered]
  · rcases h with h | h <;> simp [State.acknowledged_phase, hop, h]
  · simp [State.acknowledged_phase, hop, h]
  · simp [State.acknowledged_idx, hop, h]
  · simp [State.acknowledged_phase, hop, h]

/-- A frame that is answered negatively comes before those that follow. -/
theorem State.AcknowledgedAfter.cons {n : Nat} {more : List Input}
    (h : (s.answered p more).restartFrame.AcknowledgedAfter p n rest t) : s.AcknowledgedAfter p (n + 1) rest t := by
  obtain ⟨hlog, hkept⟩ := h
  refine ⟨?_, hkept⟩
  rw [hlog, List.replicate_succ, List.flatten_cons, ← List.append_assoc]
  rfl

/-- By induction on the negative answers: each costs one frame, and the engine starts again as it was (R151, R200). -/
theorem run_attempts (naks : List Byte) : ∀ s : State, s.AtFrameStart p → (∀ b ∈ naks, b ≠ s.cfg.ackCode) →
    s.inputs = (naks ++ [s.cfg.ackCode]).flatMap (attempt (frameOf s.mode p).length) ++ rest →
    ∃ t, Sys2Proof.core.run ((naks.length + 1) * ((frameOf s.mode p).length + 2)) s = .next t ∧
      s.AcknowledgedAfter p (naks.length + 1) rest t := by
  induction naks with
  | nil =>
    intro s hs _ hin
    refine ⟨_, ?_, State.acknowledgedAfter_one⟩
    rw [List.length_nil, Nat.zero_add, Nat.one_mul]
    have hone : s.inputs = attempt (frameOf s.mode p).length s.cfg.ackCode ++ rest := by simpa using hin
    exact run_attempt hs hone (if_pos rfl)
  | cons b naks ih =>
    intro s hs hnaks hin
    obtain ⟨hb, hrest⟩ := List.forall_mem_cons.1 hnaks
    rw [List.cons_append, List.flatMap_cons, List.append_assoc] at hin
    generalize hmore : (naks ++ [s.cfg.ackCode]).flatMap _ ++ rest = more at hin
    have hfirst := run_attempt hs hin (if_neg hb)
    obtain ⟨t, hrun, ht⟩ := ih (s.answered p more).restartFrame hs.restart hrest hmore.symm
    refine ⟨t, ?_, ht.cons⟩
    rw [List.length_cons, Nat.succ_mul, Nat.add_comm, run_add _ _ hfirst]
    exact hrun

end AnsweredFrame

end Sys2Proof.Machine

section
open Sys2Proof Sys2Proof.Machine

/-- Settles O57: one frame for each negative answer, and one for the acknowledgment. -/
theorem retryLaw : Obligations.RetryLaw := by
  intro s p naks rest hp hr ho ha hP hq hroom hnaks hin
  exact run_attempts naks s ⟨hp, hr, ho, ha, hP, hq, hroom⟩ hnaks hin

end

section
open Sys2Proof Sys2Proof.Machine

/-- Settles O8: idle and open are what each asks for. -/
theorem sendFamilyStarts : Obligations.SendFamilyStarts := by
  intro s hp ho
  have accept : ∀ o, acceptOp o s = .next (s.issue o) := fun _ => if_pos ⟨hp, ho⟩
  exact ⟨accept .send, accept .sendb, accept .sendna, accept .sendbna⟩

/-- Settles O14: the header step of the operation's mode and payload source, and of each format's. -/
theorem txHdrStep : Obligations.TxHdrStep := by
  intro s hp hr
  refine ⟨?_, emit_txHdr hp hr, emit_txHdr hp hr, emit_txHdr hp hr, emit_txHdr hp hr⟩
  rw [engineStep_of_emits (by rw [hp]; rfl)]
  exact emit_txHdr hp hr

/-- Settles O15: the length step of the payload. -/
theorem txLenStep : Obligations.TxLenStep :=
  fun _ hp hr => emit_txLen hp hr

/-- Settles O16: the payload step, by where its byte comes from. -/
theorem txPayStep : Obligations.TxPayStep := by
  intro s hp hr
  have query : ∀ src n b, s.idx = n → src.byte s n.toNat = .ok b → emit .B src s = .next
      { s with
        txlog := s.txlog ++ [b], txbuf := s.txbuf ++ [b], csum := s.csum + b, idx := n + 1
        phase := if n.toNat + 1 = (src.len s).toNat then .txSum else .txPay } := by
    rintro src n b rfl hb
    exact emit_txPay hp hr hb
  refine ⟨fun b hi hb i hf => ?_, fun hi i hf => ?_, fun hi => ⟨?_, ?_⟩⟩
  · have hcell : Source.payload.byte s s.idx.toNat = .ok b := Memory.cell_of_read hi hb
    rcases hf with rfl | rfl <;> exact emit_txPay hp hr hcell
  · rcases hf with rfl | rfl
    · exact query .queryFill 0 _ hi rfl
    · exact query .queryRead 0 _ hi rfl
  · exact query .queryFill 1 _ hi rfl
  · exact query .queryRead 1 _ hi rfl

/-- Settles O18: the four formats end alike, by whether OP is acknowledged. -/
theorem txSumStep : Obligations.TxSumStep := by
  intro s hp hr i hi
  obtain ⟨m, src, hemit⟩ := exec_outgoing hi
  rw [hemit, emit_txSum hp hr]
  refine ⟨fun hna hbna => ?_, fun ho => ?_⟩
  · simp [Op.acked_eq_true_iff.2 ⟨hna, hbna⟩]
  · rcases ho with ho | ho <;> simp [ho, Op.acked]

/-- Settles O21: the acknowledgment, by the operation it ends or leads on. -/
theorem ackStep : Obligations.AckStep := by
  intro s rest hp hq
  rw [exec_ackByte_ack hp hq]
  refine ⟨fun ho => ?_, fun ho => ?_, fun ho => ?_⟩
  · rcases ho with ho | ho <;> simp [State.acknowledged, ho]
  · simp [State.acknowledged, ho]
  · simp [State.acknowledged, ho]

/-- Settles O22: the restart consumes the one byte. -/
theorem nakStep : Obligations.NakStep :=
  fun _ _ _ hp hq hb => exec_ackByte_nak hp hq hb

/-- Settles O23: the restart at the engine's turn, listed or not. -/
theorem timeoutStep : Obligations.TimeoutStep := by
  intro s hp hq hw
  refine ⟨exec_ackByte_timeout hp hq hw, fun hin => ?_, fun rest hin => ?_⟩
  · exact (step_nil hin).trans (engineStep_timeout hp hq hw)
  · exact (step_engine hin).trans (engineStep_timeout (s := { s with inputs := rest }) hp hq hw)

end

namespace Sys2Proof.Machine

section ReplySteps
/-! FILL_REPLY and BUFFER_REPLY, by phase and by what RXQ holds (R170, R174 to R180). -/

variable {s t : State} {b : Byte} {q : List Byte}

theorem exec_fillReply_empty (hq : s.rxq = []) : exec .fillReply s = .next s := by
  cases hp : s.phase <;> simp only [exec, execFillReply, hp]
  case rxPre | rxFill | rxPost => exact State.onByte_nil _ hq

theorem exec_bufferReply_empty (hq : s.rxq = []) : exec .bufferReply s = .next s := by
  cases hp : s.phase <;> simp only [exec, execBufferReply, hp]
  case rxLen | rxData | rxTrail => exact State.onByte_nil _ hq

theorem exec_fillReply_rxPre (hp : s.phase = .rxPre) (hq : s.rxq = b :: q) :
    exec .fillReply s =
      .next { s with rxq := q, idx := s.idx + 1, phase := if s.idx.toNat + 1 = 2 then .rxFill else .rxPre } := by
  simp only [exec, execFillReply, hp]
  exact State.onByte_cons _ hq

theorem exec_fillReply_rxFill (hp : s.phase = .rxFill) (hq : s.rxq = b :: q) :
    exec .fillReply s = .next { s with rxq := q, fill := b, idx := 0, phase := .rxPost } := by
  simp only [exec, execFillReply, hp]
  exact State.onByte_cons _ hq

theorem exec_fillReply_rxPost (hp : s.phase = .rxPost) (hq : s.rxq = b :: q) :
    exec .fillReply s =
      .next { s with rxq := q, idx := s.idx + 1, phase := if s.idx.toNat + 1 = 2 then .idle else .rxPost } := by
  simp only [exec, execFillReply, hp]
  exact State.onByte_cons _ hq

theorem exec_bufferReply_rxLen (hp : s.phase = .rxLen) (hq : s.rxq = b :: q) :
    exec .bufferReply s =
      .next { s with rxq := q, rcount := b, idx := 0, phase := if 0 < b.toNat then .rxData else .rxTrail } := by
  simp only [exec, execBufferReply, hp]
  exact State.onByte_cons _ hq

theorem exec_bufferReply_rxData (hp : s.phase = .rxData) (hq : s.rxq = b :: q) (hi : s.idx.toNat < bufCells) :
    exec .bufferReply s = .next
      { s with
        rxq := q, rbuf := s.rbuf.write s.idx.toNat b, idx := s.idx + 1
        phase := if s.idx.toNat + 1 = s.rcount.toNat then .rxTrail else .rxData } := by
  simp only [exec, execBufferReply, hp]
  exact (State.onByte_cons _ hq).trans (if_pos hi)

theorem exec_bufferReply_rxTrail (hp : s.phase = .rxTrail) (hq : s.rxq = b :: q) :
    exec .bufferReply s = .next { s with rxq := q, phase := .idle } := by
  simp only [exec, execBufferReply, hp]
  exact State.onByte_cons _ hq

theorem exec_fillReply_of_not_phase (hp : ¬ (s.phase = .rxPre ∨ s.phase = .rxFill ∨ s.phase = .rxPost)) :
    exec .fillReply s = .next s := by
  cases h : s.phase <;> simp [exec, execFillReply, h] at hp ⊢

theorem exec_bufferReply_of_not_phase (hp : ¬ (s.phase = .rxLen ∨ s.phase = .rxData ∨ s.phase = .rxTrail)) :
    exec .bufferReply s = .next s := by
  cases h : s.phase <;> simp [exec, execBufferReply, h] at hp ⊢

/-- RCOUNT is a byte, so an IDX below it names a cell of RBUF (R60, R179). -/
theorem State.idx_lt_bufCells (hi : s.idx.toNat < s.rcount.toNat) : s.idx.toNat < bufCells :=
  Nat.lt_of_lt_of_le hi (Nat.le_of_lt_succ s.rcount.isLt)

/-- The engine is inside no format but the two replies, outside an attempt (R35). -/
theorem State.inProgress_of_not_inAttempt (h : s.phase.inAttempt = false) :
    s.phase = .idle ∨ s.inProgress = some .fillReply ∨ s.inProgress = some .bufferReply := by
  cases hp : s.phase <;> simp [State.inProgress, Phase.inAttempt, hp] at h ⊢

/-- With nothing received, the engine's turn outside an attempt changes nothing (R170). -/
theorem engineStep_waits (h : s.phase.inAttempt = false) (hq : s.rxq = []) : engineStep s = .next s := by
  rcases State.inProgress_of_not_inAttempt h with hidle | hfill | hbuffer
  · exact engineStep_idle hidle
  · exact (engineStep_of_inProgress hfill).trans (exec_fillReply_empty hq)
  · exact (engineStep_of_inProgress hbuffer).trans (exec_bufferReply_empty hq)

/-- The fields FILL_REPLY can change. -/
theorem exec_fillReply_next (h : exec .fillReply s = .next t) :
    t = { s with rxq := t.rxq, phase := t.phase, idx := t.idx, fill := t.fill } := by
  by_cases hp : s.phase = .rxPre ∨ s.phase = .rxFill ∨ s.phase = .rxPost
  · cases hq : s.rxq with
    | nil => rw [exec_fillReply_empty hq] at h; cases h; rfl
    | cons b q =>
      rcases hp with hp | hp | hp
      · rw [exec_fillReply_rxPre hp hq] at h; cases h; rfl
      · rw [exec_fillReply_rxFill hp hq] at h; cases h; rfl
      · rw [exec_fillReply_rxPost hp hq] at h; cases h; rfl
  · rw [exec_fillReply_of_not_phase hp] at h; cases h; rfl

/-- In RX_DATA a BUFFER_REPLY that takes a byte has a cell for it (R60). -/
theorem exec_bufferReply_rxData_next (hp : s.phase = .rxData) (hq : s.rxq = b :: q)
    (h : exec .bufferReply s = .next t) : s.idx.toNat < bufCells := by
  by_contra hi
  have hfault : exec .bufferReply s = .fault .noSuchCell := by
    simp only [exec, execBufferReply, hp]
    exact (State.onByte_cons _ hq).trans (if_neg hi)
  simp [hfault] at h

/-- The fields BUFFER_REPLY can change. -/
theorem exec_bufferReply_next (h : exec .bufferReply s = .next t) :
    t = { s with rxq := t.rxq, phase := t.phase, idx := t.idx, rcount := t.rcount, rbuf := t.rbuf } := by
  by_cases hp : s.phase = .rxLen ∨ s.phase = .rxData ∨ s.phase = .rxTrail
  · cases hq : s.rxq with
    | nil => rw [exec_bufferReply_empty hq] at h; cases h; rfl
    | cons b q =>
      rcases hp with hp | hp | hp
      · rw [exec_bufferReply_rxLen hp hq] at h; cases h; rfl
      · rw [exec_bufferReply_rxData hp hq (exec_bufferReply_rxData_next hp hq h)] at h; cases h; rfl
      · rw [exec_bufferReply_rxTrail hp hq] at h; cases h; rfl
  · rw [exec_bufferReply_of_not_phase hp] at h; cases h; rfl

/-- A step leaves RXQ as it is or takes its oldest byte (R125). -/
theorem Transition.rxq_cases (h : Transition s t) : t.rxq = s.rxq ∨ ∃ b, s.rxq = b :: t.rxq :=
  h.consumes.imp_right fun ⟨b, hb, _⟩ => ⟨b, hb⟩

end ReplySteps

end Sys2Proof.Machine

section
open Sys2Proof Sys2Proof.Machine

/-- Settles O9: idle and open are what both queries ask for. -/
theorem queriesStart : Obligations.QueriesStart := by
  intro s hp ho
  have accept : ∀ o, acceptOp o s = .next (s.issue o) := fun _ => if_pos ⟨hp, ho⟩
  exact ⟨accept .qfill, accept .rdbuf⟩

/-- Settles O27: one equation for each of the three phases. -/
theorem fillReplySteps : Obligations.FillReplySteps :=
  fun _ _ _ hq =>
    ⟨(exec_fillReply_rxPre · hq), (exec_fillReply_rxFill · hq), (exec_fillReply_rxPost · hq)⟩

/-- Settles O28: the length byte's step. -/
theorem rxLenStep : Obligations.RxLenStep :=
  fun _ _ _ hp hq => exec_bufferReply_rxLen hp hq

/-- Settles O29: IDX is below RCOUNT, a byte, and so names a cell; the rest is read after write. -/
theorem rxDataStep : Obligations.RxDataStep := by
  intro s b rest hp hq hi
  exact ⟨exec_bufferReply_rxData hp hq (State.idx_lt_bufCells hi), Memory.read_write_same ..,
    fun _ => Memory.read_write_other _ _⟩

/-- Settles O30: the trailing byte's step. -/
theorem rxTrailStep : Obligations.RxTrailStep :=
  fun _ _ _ hp hq => exec_bufferReply_rxTrail hp hq

/-- Settles O31: the step leaves the state as it is, and so any number of steps. -/
theorem replyPhasesWait : Obligations.ReplyPhasesWait := by
  intro s k hq
  refine ⟨exec_fillReply_empty hq, exec_bufferReply_empty hq, fun hin ha => run_of_fixed ?_ k⟩
  exact (step_nil hin).trans (engineStep_waits ha hq)

/-- Settles O32: the fields FILL_REPLY can change, and what an engine step does to each. -/
theorem fillReplyFrame : Obligations.FillReplyFrame := by
  intro s t h
  have ht : Transition s t := transition_of_fillReply h
  have hframe := exec_fillReply_next h
  have hpbuf : t.pbuf = s.pbuf := by rw [hframe]
  have hrbuf : t.rbuf = s.rbuf := by rw [hframe]
  exact ⟨hframe, fun hp => ht.fill_cases.resolve_right fun ⟨hfill, _⟩ => hp hfill, ht.rxq_cases,
    fun _ => ⟨by rw [hpbuf], by rw [hrbuf]⟩⟩

/-- Settles O33: the fields BUFFER_REPLY can change, and what an engine step does to each. -/
theorem bufferReplyFrame : Obligations.BufferReplyFrame := by
  intro s t h
  have ht : Transition s t := transition_of_bufferReply h
  have hframe := exec_bufferReply_next h
  have hpbuf : t.pbuf = s.pbuf := by rw [hframe]
  refine ⟨hframe, fun hp => ht.rcount_cases.resolve_right fun ⟨hlen, _⟩ => hp hlen, ht.rxq_cases,
    fun _ => by rw [hpbuf], fun hp a => ?_, fun a ha => ?_⟩
  · rw [ht.rbuf_cases.resolve_right fun ⟨_, hdata, _⟩ => hp hdata]
  · rcases ht.rbuf_cases with hsame | ⟨b, -, -, -, hwrite⟩
    · rw [hsame]
    · rw [hwrite, Memory.read_write_other _ _ ha]

end

namespace Sys2Proof.Machine

section FillReplyRun
/-! The engine's turns over the five bytes of a fill reply: two dropped, the level, two dropped (R173). -/

variable {s : State} {q : List Byte} {rest : List Input}

/-- The engine's turn in the phases of a fill reply. -/
theorem step_fillReply (hp : s.phase = .rxPre ∨ s.phase = .rxFill ∨ s.phase = .rxPost)
    (hin : s.inputs = .engine :: rest) :
    step s = exec .fillReply { s with inputs := rest } := by
  rw [step_engine hin]
  refine engineStep_of_inProgress ?_
  rcases hp with hp | hp | hp <;> simp [State.inProgress, hp]

/-- RX_PRE and RX_POST drop alike; `leave` is where each goes after its second byte (R174, R176). -/
theorem step_dropByte {stay leave : Phase} {b : Byte}
    (hleave : stay = .rxPre ∧ leave = .rxFill ∨ stay = .rxPost ∧ leave = .idle)
    (hp : s.phase = stay) (hq : s.rxq = b :: q) (hin : s.inputs = .engine :: rest) :
    step s = .next
      { s with
        rxq := q, idx := s.idx + 1, phase := if s.idx.toNat + 1 = 2 then leave else stay, inputs := rest } := by
  rcases hleave with ⟨rfl, rfl⟩ | ⟨rfl, rfl⟩
  · exact (step_fillReply (.inl hp) hin).trans (exec_fillReply_rxPre hp hq)
  · exact (step_fillReply (.inr (.inr hp)) hin).trans (exec_fillReply_rxPost hp hq)

theorem run_dropTwo {stay leave : Phase} {b c : Byte}
    (hleave : stay = .rxPre ∧ leave = .rxFill ∨ stay = .rxPost ∧ leave = .idle)
    (hp : s.phase = stay) (hi : s.idx = 0) (hq : s.rxq = b :: c :: q) (hin : s.inputs = .engine :: .engine :: rest) :
    Sys2Proof.core.run 2 s = .next { s with rxq := q, idx := 2, phase := leave, inputs := rest } := by
  have hfirst := step_dropByte hleave hp hq hin
  rw [hi] at hfirst
  rw [run_succ_next hfirst, run_succ_next (step_dropByte hleave rfl rfl rfl)]
  rfl

theorem step_takeFill {level : Byte} (hp : s.phase = .rxFill) (hq : s.rxq = level :: q)
    (hin : s.inputs = .engine :: rest) :
    step s = .next { s with rxq := q, fill := level, idx := 0, phase := .rxPost, inputs := rest } := by
  rw [step_fillReply (.inr (.inl hp)) hin]
  exact exec_fillReply_rxFill hp hq

end FillReplyRun

end Sys2Proof.Machine

section
open Sys2Proof Sys2Proof.Machine

/-- Settles O58: two bytes dropped, the third into FILL, two dropped. -/
theorem fillReplyIsParsedByPosition : Obligations.FillReplyIsParsedByPosition := by
  intro s r0 r1 level r3 r4 more rest hp hi hq hin
  rw [run_add 2 3 (run_dropTwo (.inl ⟨rfl, rfl⟩) hp hi hq hin),
    run_succ_next (step_takeFill rfl rfl rfl), run_dropTwo (.inr ⟨rfl, rfl⟩) rfl rfl rfl rfl]
  rfl

end

namespace Sys2Proof.Machine

section BufferReplyRun
/-! The engine's turns over a buffer reply: its length byte, its bytes into RBUF one after the other, its trailing byte
(R177 to R180). -/

variable {s : State} {q : List Byte} {rest : List Input}

/-- A buffer after the bytes of a list are written to successive cells, from `i` on. -/
def Memory.writeFrom (m : Memory) (i : Nat) : List Byte → Memory
  | [] => m
  | b :: bs => Memory.writeFrom (m.write i b) (i + 1) bs

/-- The cells below `i`, and those past the list's end, read as before; between them stands the list. -/
theorem Memory.read_writeFrom (bs : List Byte) : ∀ (m : Memory) (i a : Nat),
    (m.writeFrom i bs).read a = if a < i then m.read a else bs[a - i]?.or (m.read a) := by
  induction bs with
  | nil => simp [Memory.writeFrom]
  | cons b bs ih =>
    intro m i a
    rw [Memory.writeFrom, ih]
    rcases Nat.lt_trichotomy a i with ha | rfl | ha
    · rw [if_pos (by omega), if_pos ha, Memory.read_write_other _ _ (by omega)]
    · simp
    · rw [if_neg (by omega), if_neg (by omega), Memory.read_write_other _ _ (by omega),
        show a - i = a - (i + 1) + 1 by omega, List.getElem?_cons_succ]

/-- The engine's turn in the phases of a buffer reply. -/
theorem step_bufferReply (hp : s.phase = .rxLen ∨ s.phase = .rxData ∨ s.phase = .rxTrail)
    (hin : s.inputs = .engine :: rest) :
    step s = exec .bufferReply { s with inputs := rest } := by
  rw [step_engine hin]
  refine engineStep_of_inProgress ?_
  rcases hp with hp | hp | hp <;> simp [State.inProgress, hp]

/-- The phase with `left` reply bytes still to be stored (R178, R179). -/
def replyPhase (left : Nat) : Phase := if 0 < left then .rxData else .rxTrail

/-- The model asks for equality where RCOUNT is reached from below (R179). -/
theorem replyPhase_eq_of_left {i left n : Nat} (h : i + (left + 1) = n) :
    replyPhase left = if i + 1 = n then .rxTrail else .rxData := by
  unfold replyPhase
  by_cases hleft : 0 < left
  · rw [if_pos hleft, if_neg (by omega)]
  · rw [if_neg hleft, if_pos (by omega)]

theorem step_takeCount {n : Byte} (hp : s.phase = .rxLen) (hq : s.rxq = n :: q) (hin : s.inputs = .engine :: rest) :
    step s = .next { s with rxq := q, rcount := n, idx := 0, phase := replyPhase n.toNat, inputs := rest } := by
  rw [step_bufferReply (.inl hp) hin]
  exact exec_bufferReply_rxLen hp hq

theorem step_takeData {b : Byte} {left : Nat} (hp : s.phase = .rxData) (hq : s.rxq = b :: q)
    (hi : s.idx.toNat + (left + 1) = s.rcount.toNat) (hin : s.inputs = .engine :: rest) :
    step s = .next
      { s with
        rxq := q, rbuf := s.rbuf.write s.idx.toNat b, idx := s.idx + 1, phase := replyPhase left, inputs := rest } := by
  have hcell : s.idx.toNat < bufCells := State.idx_lt_bufCells (by omega)
  rw [step_bufferReply (.inr (.inl hp)) hin, replyPhase_eq_of_left hi]
  exact exec_bufferReply_rxData hp hq hcell

theorem step_dropTrail {b : Byte} (hp : s.phase = .rxTrail) (hq : s.rxq = b :: q) (hin : s.inputs = .engine :: rest) :
    step s = .next { s with rxq := q, phase := .idle, inputs := rest } := by
  rw [step_bufferReply (.inr (.inr hp)) hin]
  exact exec_bufferReply_rxTrail hp hq

/-- By induction on the bytes still to be stored: each goes to RBUF[IDX], and after the last IDX is RCOUNT. -/
theorem run_takeData (bytes : List Byte) : ∀ s : State, s.phase = replyPhase bytes.length →
    s.idx.toNat + bytes.length = s.rcount.toNat → s.rxq = bytes ++ q →
    s.inputs = List.replicate bytes.length .engine ++ rest →
    Sys2Proof.core.run bytes.length s = .next
      { s with
        rxq := q, rbuf := s.rbuf.writeFrom s.idx.toNat bytes, idx := s.rcount, phase := .rxTrail, inputs := rest } := by
  induction bytes with
  | nil =>
    intro s hp hi hq hin
    have hidx : s.idx = s.rcount := BitVec.eq_of_toNat_eq hi
    cases s
    cases hp; cases hidx; cases hq; cases hin
    rfl
  | cons b bytes ih =>
    intro s hp hi hq hin
    have hbelow : s.idx.toNat < s.rcount.toNat := by simp only [List.length_cons] at hi; omega
    have hnext : (s.idx + 1).toNat = s.idx.toNat + 1 := succ_toNat_of_lt (State.idx_lt_bufCells hbelow)
    rw [List.length_cons, run_succ_next (step_takeData hp hq hi hin), ih _ rfl _ rfl rfl]
    · rw [Memory.writeFrom, hnext]
    · rw [hnext, ← hi, List.length_cons]
      omega

end BufferReplyRun

end Sys2Proof.Machine

section
open Sys2Proof Sys2Proof.Machine

/-- Settles O59: the length byte, the bytes, the trailing byte; the cells below the length hold the bytes. -/
theorem bufferReplyIsParsedByPosition : Obligations.BufferReplyIsParsedByPosition := by
  intro s d trailing more rest hp hd hq hin
  have hcount : (countByte d.length).toNat = d.length := countByte_toNat hd
  have hqueue : s.rxq = countByte d.length :: (d ++ trailing :: more) := by
    simp [hq, encode]
  have hturns : s.inputs = .engine :: (List.replicate d.length .engine ++ .engine :: rest) := by
    rw [hin, List.replicate_succ, List.replicate_succ', List.cons_append, List.append_assoc, List.singleton_append]
  refine ⟨{ s with
    rxq := more, rcount := countByte d.length, idx := countByte d.length, rbuf := s.rbuf.writeFrom 0 d
    phase := .idle, inputs := rest }, ?_, rfl, fun i h => ?_, fun i h => ?_⟩
  · have hbytes : (0 : Byte).toNat + d.length = (countByte d.length).toNat := (Nat.zero_add _).trans hcount.symm
    rw [run_succ_next (step_takeCount hp hqueue hturns), hcount,
      run_add d.length 1 (run_takeData d _ rfl hbytes rfl rfl)]
    exact run_succ_next (step_dropTrail rfl rfl rfl) 0
  · simp [Memory.read_writeFrom, h]
  · simp [Memory.read_writeFrom, h]

end

namespace Sys2Proof.Machine

section CmdWrite
/-! A byte the host writes to CMD, and the bytes that start an operation (R27, R91). -/

variable {s : State}

/-- A host write of CMD runs the command its byte names (R27). -/
theorem hostWrite_cmd (b : Byte) : hostWrite (.reg 0) b.toNat s = exec (decodeCmd b) s := by
  rw [hostWrite_reg (by decide) b.isLt]
  simp [writeReg]

/-- The opcode bits of a command byte that starts an operation, with bits[7:3] zero (R91). -/
theorem Op.cmdByte_fields (o : Op) : o.cmdByte.toNat / 8 = 0 ∧ o.cmdByte.toNat % 8 ≤ 5 := by
  cases o <;> decide

end CmdWrite

section Completion
/-! What BUSY = 1 keeps, and the ways out of it (R191, R197). -/

variable {s t : State} {inp : Option Input}

/-- While BUSY = 1 no agent but reset changes the host's own cells: the host's writes need PHASE = IDLE (R197). -/
theorem AgentTransition.keeps_hostCells (h : AgentTransition s inp t) (hr : inp ≠ some .reset)
    (hbusy : s.phase ≠ .idle) : t.len = s.len ∧ t.baud = s.baud ∧ t.pbuf = s.pbuf := by
  cases h with
  | engine _ _ _ he => exact he.keeps_hostCells
  | writeLen _ _ _ hidle | writeBaud _ _ hidle | writePbuf _ _ _ _ hidle => exact absurd hidle hbusy
  | reset => exact absurd rfl hr
  | _ => exact ⟨rfl, rfl, rfl⟩

/-- The acknowledgment ends SEND and SENDB; a query goes on to its reply (R148). -/
theorem State.acknowledged_idle (ha : s.op.acked = true) (h : s.acknowledged.phase = .idle) :
    s.op = .send ∨ s.op = .sendb := by
  rw [State.acknowledged_phase] at h
  cases hop : s.op <;> simp [hop, Op.acked] at ha h ⊢

/-- The step from `s` to `t` ends an operation by one of the four ways of R191. -/
def State.Completes (s t : State) : Prop :=
  (s.phase = .txSum ∧ (s.op = .sendna ∨ s.op = .sendbna) ∧ t.txlog = s.txlog ++ [s.csum]) ∨
  (s.phase = .ackWait ∧ (s.op = .send ∨ s.op = .sendb) ∧ s.rxq = s.cfg.ackCode :: t.rxq) ∨
  (s.phase = .rxPost ∧ s.op = .qfill ∧ s.idx = 1 ∧ ∃ b, s.rxq = b :: t.rxq) ∨
  (s.phase = .rxTrail ∧ s.op = .rdbuf ∧ ∃ b, s.rxq = b :: t.rxq)

/-- The engine's steps into IDLE, by the rows of the tables that have one (R160, R183). -/
theorem Transition.completes (h : Transition s t) (hs : s.SequencerOk) (hbusy : s.phase ≠ .idle)
    (hidle : t.phase = .idle) : s.Completes t := by
  cases h with
  | same => exact absurd hidle hbusy
  | txSum hp =>
    by_cases ha : s.op.acked = true
    · simp [ha] at hidle
    · refine .inl ⟨hp, ?_, rfl⟩
      by_contra hop
      exact ha (Op.acked_eq_true_iff.2 (not_or.1 hop))
  | ack rest hp hq =>
    have ha : s.op.acked = true := by simpa only [State.SequencerOk, hp] using hs
    exact .inr (.inl ⟨hp, State.acknowledged_idle (s := { s with rxq := rest }) ha hidle,
      by rw [State.acknowledged_rxq]; exact hq⟩)
  | rxPost b rest hp hq =>
    simp only [State.SequencerOk, hp] at hs
    obtain ⟨hop, -⟩ := hs
    have hlast : s.idx.toNat + 1 = 2 := by
      by_contra hne
      simp [hne] at hidle
    exact .inr (.inr (.inl ⟨hp, hop, BitVec.eq_of_toNat_eq (Nat.succ.inj hlast), b, hq⟩))
  | rxTrail b rest hp hq =>
    simp only [State.SequencerOk, hp] at hs
    exact .inr (.inr (.inr ⟨hp, hs, b, hq⟩))
  | nak | timeout | rxFill => cases hidle
  | txHdr | txLen | txPay | rxPre | rxLen | rxData =>
    dsimp only at hidle
    split_ifs at hidle

end Completion

section SilentDevice
/-! The bounded variant's cycle without an answer: the frame, and TIMEOUT (R150, R194). Where it starts again is where a
negative answer would start it, so `answered` serves here too. -/

variable {s t : State} {p : List Byte}

/-- An acknowledged operation of the bounded variant, the transport accepting, nothing received and nothing to come. -/
structure State.Silent (s : State) (p : List Byte) : Prop where
  bounded : s.cfg.boundedWait = true
  acked : s.op.acked = true
  noneQueued : s.rxq = []
  accepts : s.txReady = true
  payload : s.PayloadIs p
  noInput : s.inputs = []

/-- A restart leaves the device silent (R200). -/
theorem State.Silent.restart (hs : s.Silent p) : s.restartFrame.Silent p :=
  { hs with payload := hs.payload.congr rfl rfl rfl }

theorem State.Silent.answered (hs : s.Silent p) : (s.answered p []).Silent p :=
  { hs with payload := hs.payload.congr rfl rfl rfl, noneQueued := rfl, noInput := rfl }

theorem step_timeout (hs : s.Silent p) (hp : s.phase = .ackWait) : step s = .next s.restartFrame :=
  (step_nil hs.noInput).trans (engineStep_timeout hp hs.noneQueued hs.bounded)

/-- The frame goes out also where the engine's turns are not listed. -/
theorem run_frame_unlisted (hs : s.Silent p) (hp : s.phase = .txHdr) :
    Sys2Proof.core.run (frameOf s.mode p).length s = .next { s.answered p [] with timer := .running } := by
  have hlisted := anAttemptSendsTheFrame { s with inputs := List.replicate (frameOf s.mode p).length .engine } p []
    hp hs.accepts (hs.payload.congr rfl rfl rfl) (List.append_nil _).symm
  have hnone : s = { s with inputs := [] } := by rw [← hs.noInput]
  refine (congrArg (Sys2Proof.core.run _) hnone).trans ((run_engine_turns _ _ _ rfl hlisted).trans ?_)
  simp [State.answered, State.mode, hs.acked, hs.bounded, hs.noneQueued]

/-- A whole frame, and the step that starts the next. -/
theorem run_unanswered (hs : s.Silent p) (hp : s.phase = .txHdr) :
    Sys2Proof.core.run ((frameOf s.mode p).length + 1) s = .next (s.answered p []).restartFrame := by
  have hwait : ({ s.answered p [] with timer := .running } : State).Silent p :=
    { hs.answered with payload := hs.answered.payload.congr rfl rfl rfl }
  rw [run_add _ 1 (run_frame_unlisted hs hp)]
  exact run_succ_next (step_timeout hwait rfl) 0

/-- `n` frames of `p` have been sent from `s`, and the engine is at the header of the next with BUSY = 1. -/
def State.ResentAfter (s : State) (p : List Byte) (n : Nat) (t : State) : Prop :=
  t.txlog = s.txlog ++ (List.replicate n (frameOf s.mode p)).flatten ∧ t.phase = .txHdr ∧ t.rxq = [] ∧
  t.status.getLsbD 0 = true ∧ t.op = s.op ∧ t.len = s.len ∧ t.pbuf = s.pbuf

theorem State.Silent.resentAfter_zero (hs : s.Silent p) (hp : s.phase = .txHdr) : s.ResentAfter p 0 s :=
  ⟨by simp, hp, hs.noneQueued, State.status_busy (by simp [hp]), rfl, rfl, rfl⟩

/-- The frame that is not answered comes before those that follow. -/
theorem State.ResentAfter.succ {n : Nat} (h : (s.answered p []).restartFrame.ResentAfter p n t) :
    s.ResentAfter p (n + 1) t := by
  obtain ⟨hlog, hkept⟩ := h
  refine ⟨?_, hkept⟩
  rw [hlog, List.replicate_succ, List.flatten_cons, ← List.append_assoc]
  rfl

/-- By induction on the frames: TIMEOUT starts each from where the one before it started. -/
theorem run_resends (n : Nat) : ∀ s : State, s.Silent p → s.phase = .txHdr →
    ∃ t, Sys2Proof.core.run (n * ((frameOf s.mode p).length + 1)) s = .next t ∧ s.ResentAfter p n t := by
  induction n with
  | zero =>
    intro s hs hp
    exact ⟨s, by rw [Nat.zero_mul, run_zero], hs.resentAfter_zero hp⟩
  | succ n ih =>
    intro s hs hp
    obtain ⟨t, hrun, ht⟩ := ih _ hs.answered.restart rfl
    refine ⟨t, ?_, ht.succ⟩
    rw [Nat.succ_mul, Nat.add_comm, run_add _ _ (run_unanswered hs hp)]
    exact hrun

end SilentDevice

end Sys2Proof.Machine

section
open Sys2Proof Sys2Proof.Machine

/-- Settles O12: the byte of an accepted command, with the state that accepts it, is none of the five cases. -/
theorem unacceptedCommandsAreIgnored : Obligations.UnacceptedCommandsAreIgnored := by
  intro s b hb
  refine (hostWrite_cmd b).trans ?_
  rcases exec_decodeCmd_cases b s with h | ⟨o, rfl, hidle, hopen, -⟩ | ⟨rfl, hidle, hclosed, -⟩
  · exact h
  · obtain ⟨hhigh, hopc⟩ := o.cmdByte_fields
    have hne : o.cmdByte.toNat % 8 ≠ 7 ∧ o.cmdByte.toNat % 8 ≠ 6 := by omega
    simp [hhigh, hne, hidle, hopen] at hb
  · simp [hidle, hclosed] at hb

/-- Settles O50: the engine never writes the host's cells, and the host's own writes wait for IDLE. -/
theorem payloadIsFixedWhileBusy : Obligations.PayloadIsFixedWhileBusy := by
  intro s t hbusy hr h
  obtain ⟨rest, -, ht⟩ := transition_of_step h
  obtain ⟨hlen, hbaud, hpbuf⟩ := ht.keeps_hostCells hr hbusy
  exact ⟨hlen, hbaud, fun a => congrArg (Memory.read · a) hpbuf⟩

/-- Settles O55: the engine alone ends an operation, along the rows into IDLE. -/
theorem completionIsSuccess : Obligations.CompletionIsSuccess := by
  intro s t hs hr h hbusy hidle
  obtain ⟨rest, -, ht⟩ := transition_of_step h
  rcases ht.phase_cases hr with he | hsame | ⟨_, hwas, -⟩
  · exact he.completes (hs.withInputs rest).sequencer hbusy hidle
  · exact absurd (hsame.symm.trans hidle) hbusy
  · exact absurd hwas hbusy

/-- Settles O24: the frames one after the other; from ACK_WAIT, TIMEOUT comes first. -/
theorem elapsedWindowRetries : Obligations.ElapsedWindowRetries := by
  intro s p n hw ha hq hr hP hin
  have hs : s.Silent p := ⟨hw, ha, hq, hr, hP, hin⟩
  refine ⟨run_resends n s hs, fun hp => ?_⟩
  obtain ⟨t, hrun, ht⟩ := run_resends n s.restartFrame hs.restart rfl
  exact ⟨t, (run_succ_next (step_timeout hs hp) _).trans hrun, ht⟩

end

namespace Sys2Proof.Machine

section Reset
/-! The reset input's step, and the engine's turn in the state it leaves (R220, R221). -/

theorem step_reset {s : State} {rest : List Input} (hin : s.inputs = .reset :: rest) :
    step s = .next ({ s with inputs := rest } : State).resetNow :=
  step_cons hin

/-- With no input the turn is the engine's, which is idle. -/
theorem step_resetOf (c : Config) : step (State.resetOf c) = .next (State.resetOf c) :=
  (step_nil rfl).trans (engineStep_idle rfl)

end Reset

end Sys2Proof.Machine

section
open Sys2Proof Sys2Proof.Machine

/-- Settles O42: the reset values are the definition's, the empty buffers read as no value, and the engine is idle. -/
theorem resetState : Obligations.ResetState := by
  refine ⟨rfl, fun c => ⟨rfl, rfl, rfl, rfl, rfl, rfl, rfl, fun a => ?_, step_resetOf c⟩⟩
  exact ⟨Memory.read_nil a, Memory.read_nil a⟩

/-- Settles O43: the reset input's turn runs `resetNow`, whatever is in progress. -/
theorem resetAbandonsTheOperation : Obligations.ResetAbandonsTheOperation := by
  intro s rest hin
  rw [step_reset hin, State.resetNow_eq]

end
